-- ==== Sys2Proof/Word.lean ====
section
/-! DEFINITION. The word type: the 32-bit identifier and port word. -/

namespace Sys2Proof

/-- The identifier word, "a 32-bit unsigned integer" (30_encoding.md R70).  Bit 0 is the least
significant bit (00_scope.md R9).  The spec gives it no byte-level view (20_memory.md R51). -/
abbrev Word := BitVec 32

end Sys2Proof
end

