-- ==== Sys2Proof/Config.lean ====
section
/-! DEFINITION. The exported constants of the codec (10_state.md R25 to R29, R43) under the spec's own
names, and the two interface parameters W_IN and W_OUT at their defaults (00_scope.md R8).  Each is a fixed
number: no register, pin or argument alters one (R24, R30).  The spec leaves no value open, so there is
no free value here (93_implementation_defined.md section 1). -/

namespace Sys2Proof.Config

/-- The width of each packer input port, default 32 (R8, R35; 92_eei_decisions.md D4): the ports of
Machine/State.lean are words of this width.  No result depends on it (R155).  Log entry 3. -/
def W_IN : Nat := 32

/-- The width of each extractor output port, default 32, high bits zero (R8, R38; D5): the results of
Machine/Ops.lean are words of this width.  No result depends on it (R125).  Log entry 3. -/
def W_OUT : Nat := 32

/-- The width of the identifier (R70). -/
def ID_WIDTH : Nat := 32

/-- Field widths (R25). -/
def NUMBER_WIDTH : Nat := 8

/-- Field widths (R25). -/
def TYPE_WIDTH : Nat := 8

/-- Field widths (R25). -/
def SIZE_WIDTH : Nat := 14

/-- Field widths (R25). -/
def DIRECTION_WIDTH : Nat := 2

/-- Field offsets, "computed bottom-up" (R26). -/
def NUMBER_OFFSET : Nat := 0

/-- Field offsets, "computed bottom-up" (R26). -/
def TYPE_OFFSET : Nat := NUMBER_OFFSET + NUMBER_WIDTH

/-- Field offsets, "computed bottom-up" (R26). -/
def SIZE_OFFSET : Nat := TYPE_OFFSET + TYPE_WIDTH

/-- Field offsets, "computed bottom-up" (R26). -/
def DIRECTION_OFFSET : Nat := SIZE_OFFSET + SIZE_WIDTH

/-- Field masks (unshifted): `(1 << width) - 1` (R27). -/
def NUMBER_MASK : Nat := (1 <<< NUMBER_WIDTH) - 1

/-- Field masks (unshifted): `(1 << width) - 1` (R27). -/
def TYPE_MASK : Nat := (1 <<< TYPE_WIDTH) - 1

/-- Field masks (unshifted): `(1 << width) - 1` (R27). -/
def SIZE_MASK : Nat := (1 <<< SIZE_WIDTH) - 1

/-- Field masks (unshifted): `(1 << width) - 1` (R27). -/
def DIRECTION_MASK : Nat := (1 <<< DIRECTION_WIDTH) - 1

/-- Direction constants (R28).  `READ ||| WRITE` has no name of its own. -/
def NONE : Nat := 0

/-- Direction constants (R28). -/
def WRITE : Nat := 1

/-- Direction constants (R28). -/
def READ : Nat := 2

/-- In-place masks: a field's mask shifted left by its offset (R29). -/
def NUMBER_FIELD : Word := BitVec.ofNat 32 (NUMBER_MASK <<< NUMBER_OFFSET)

/-- In-place masks (R29). -/
def TYPE_FIELD : Word := BitVec.ofNat 32 (TYPE_MASK <<< TYPE_OFFSET)

/-- In-place masks (R29). -/
def SIZE_FIELD : Word := BitVec.ofNat 32 (SIZE_MASK <<< SIZE_OFFSET)

/-- In-place masks (R29). -/
def DIRECTION_FIELD : Word := BitVec.ofNat 32 (DIRECTION_MASK <<< DIRECTION_OFFSET)

end Sys2Proof.Config
end

