-- ==== Sys2Proof/Syntax.lean ====
section
/-! DEFINITION. The operations as syntax: one constructor of `Instr` per row of opcode_table.json, operands
in the source's call order (00_scope.md R14, 30_encoding.md R80 and R88). -/

namespace Sys2Proof

/-- One use of an operation with its operands: what a host presents (30_encoding.md R80, 70_reset_and_hazards.md
R209).  A packer operand is "an unsigned integer" of any size (R10, R83; R8 lets a model take unbounded
naturals), so an operand that is negative or not an integer cannot be written (60_exceptions.md R186).  An extractor's operand is
a 32-bit identifier (R37). -/
inductive Instr where
  /-- ENCODE (R100). -/
  | encode (direction type number size : Nat)
  /-- ENCODE_NONE (R103). -/
  | encodeNone (type number : Nat)
  /-- ENCODE_READ (R104). -/
  | encodeRead (type number size : Nat)
  /-- ENCODE_WRITE (R105). -/
  | encodeWrite (type number size : Nat)
  /-- ENCODE_READ_WRITE (R106). -/
  | encodeReadWrite (type number size : Nat)
  /-- DECODE_DIRECTION (R120). -/
  | decodeDirection (id : Word)
  /-- DECODE_TYPE (R121). -/
  | decodeType (id : Word)
  /-- DECODE_NUMBER (R122). -/
  | decodeNumber (id : Word)
  /-- DECODE_SIZE (R123). -/
  | decodeSize (id : Word)
  deriving DecidableEq, Repr

/-- The rows of the operation list (30_encoding.md R80): an operation without its operands. -/
inductive Op where
  | encode | encodeNone | encodeRead | encodeWrite | encodeReadWrite
  | decodeDirection | decodeType | decodeNumber | decodeSize
  deriving DecidableEq, Repr

/-- The five units, the block's agents (00_scope.md R15). -/
inductive CodecUnit where
  | PACK | XDIR | XTYPE | XNUM | XSIZE
  deriving DecidableEq, Repr

/-- The four values of the direction field by name (30_encoding.md R75). -/
inductive DirectionName where
  | none | write | read | readWrite
  deriving DecidableEq, Repr

/-- The row an operation belongs to. -/
def Instr.op : Instr → Op
  | .encode _ _ _ _ => .encode
  | .encodeNone _ _ => .encodeNone
  | .encodeRead _ _ _ => .encodeRead
  | .encodeWrite _ _ _ => .encodeWrite
  | .encodeReadWrite _ _ _ => .encodeReadWrite
  | .decodeDirection _ => .decodeDirection
  | .decodeType _ => .decodeType
  | .decodeNumber _ => .decodeNumber
  | .decodeSize _ => .decodeSize

/-- The unit that computes an operation (column "unit" of R80's list).  The derived forms are PACK with
inputs tied to constants, no units of their own (40_pack.md R107). -/
def Op.computedBy : Op → CodecUnit
  | .encode => .PACK
  | .encodeNone => .PACK
  | .encodeRead => .PACK
  | .encodeWrite => .PACK
  | .encodeReadWrite => .PACK
  | .decodeDirection => .XDIR
  | .decodeType => .XTYPE
  | .decodeNumber => .XNUM
  | .decodeSize => .XSIZE

end Sys2Proof
end

