-- ==== Sys2Proof/WellFormed.lean ====
section
/-! DEFINITION. Two checks on an operation's operands.  `Instr.wellFormed`: each operand fits its port.
`Instr.inRange`: each operand lies in its field's legal range.  Neither is a condition for executing: no operand
value is illegal (30_encoding.md R83), and the meanings run on every operand. -/

namespace Sys2Proof

/-- An operand a packer port of W_IN bits can carry (10_state.md R35; 93_implementation_defined.md U6). -/
def fitsPort (v : Nat) : Bool := decide (v < 2 ^ Config.W_IN)

/-- Every operand can be presented on the ports (R35, R37): "each packer operand may be any unsigned integer
the port can carry" (R83).  An identifier is a 32-bit word by its type (R70). -/
def Instr.wellFormed : Instr → Bool
  | .encode direction type number size => fitsPort direction && fitsPort type && fitsPort number && fitsPort size
  | .encodeNone type number => fitsPort type && fitsPort number
  | .encodeRead type number size => fitsPort type && fitsPort number && fitsPort size
  | .encodeWrite type number size => fitsPort type && fitsPort number && fitsPort size
  | .encodeReadWrite type number size => fitsPort type && fitsPort number && fitsPort size
  | .decodeDirection _ => true
  | .decodeType _ => true
  | .decodeNumber _ => true
  | .decodeSize _ => true

/-- A value in a field's legal range, 0 to the field's mask (10_state.md R27). -/
def inField (v mask : Nat) : Bool := decide (v ≤ mask)

/-- Every operand lies in its field's legal range, 0 to the field's mask (the layout table of R70).  These are
the operands an identifier word holds whole; others are truncated (R101). -/
def Instr.inRange : Instr → Bool
  | .encode direction type number size =>
      inField direction Config.DIRECTION_MASK && inField type Config.TYPE_MASK
        && inField number Config.NUMBER_MASK && inField size Config.SIZE_MASK
  | .encodeNone type number => inField type Config.TYPE_MASK && inField number Config.NUMBER_MASK
  | .encodeRead type number size =>
      inField type Config.TYPE_MASK && inField number Config.NUMBER_MASK && inField size Config.SIZE_MASK
  | .encodeWrite type number size =>
      inField type Config.TYPE_MASK && inField number Config.NUMBER_MASK && inField size Config.SIZE_MASK
  | .encodeReadWrite type number size =>
      inField type Config.TYPE_MASK && inField number Config.NUMBER_MASK && inField size Config.SIZE_MASK
  | .decodeDirection _ => true
  | .decodeType _ => true
  | .decodeNumber _ => true
  | .decodeSize _ => true

end Sys2Proof
end

