-- ==== Sys2Proof/Decode.lean ====
section
/-! DEFINITION. The identifier words of the operation map (30_encoding.md R81): what each row of
opcode_table.json fixes, the decoder (total on any bits, rejecting by name), and the encoder.  No
instruction word exists in this block: a row's mask and match describe the identifier word its operation
produces or accepts, and the operation is chosen by which unit the host uses (R80).  Log entry 2. -/

namespace Sys2Proof

/-! ### The identifier's fields as slices of the word (layout table of R70, R71 to R74) -/

/-- Field `n`, bits 7:0 (R71). -/
def fieldNumber (w : Word) : BitVec 8 := w.extractLsb' 0 8

/-- Field `t`, bits 15:8 (R72). -/
def fieldType (w : Word) : BitVec 8 := w.extractLsb' 8 8

/-- Field `s`, bits 29:16 (R73). -/
def fieldSize (w : Word) : BitVec 14 := w.extractLsb' 16 14

/-- Field `d`, bits 31:30 (R74). -/
def fieldDirection (w : Word) : BitVec 2 := w.extractLsb' 30 2

/-- A word from its four fields, most significant first: the pattern ddss...sstt...ttnn...nn of R70. -/
def assemble (d : BitVec 2) (s : BitVec 14) (t n : BitVec 8) : Word := d ++ s ++ t ++ n

/-- The name of a word's direction (table of R75; the classification of R128). -/
def directionName (w : Word) : DirectionName :=
  match (fieldDirection w).toNat with
  | 0 => .none
  | 1 => .write
  | 2 => .read
  | _ => .readWrite

/-! ### The operation map -/

/-- A row's `mask`: the identifier bits the operation fixes (R81). -/
def Op.mask : Op → Word
  | .encode => 0x00000000#32
  | .encodeNone => 0xFFFF0000#32
  | .encodeRead => 0xC0000000#32
  | .encodeWrite => 0xC0000000#32
  | .encodeReadWrite => 0xC0000000#32
  | .decodeDirection => 0x00000000#32
  | .decodeType => 0x00000000#32
  | .decodeNumber => 0x00000000#32
  | .decodeSize => 0x00000000#32

/-- A row's `match`: the value of the fixed bits (R81). -/
def Op.pattern : Op → Word
  | .encode => 0x00000000#32
  | .encodeNone => 0x00000000#32
  | .encodeRead => 0x80000000#32
  | .encodeWrite => 0x40000000#32
  | .encodeReadWrite => 0xC0000000#32
  | .decodeDirection => 0x00000000#32
  | .decodeType => 0x00000000#32
  | .decodeNumber => 0x00000000#32
  | .decodeSize => 0x00000000#32

/-- "An identifier word `w` can be produced (or is accepted) by the row's operation exactly when
`(w & mask) == match`" (R81). -/
def Op.accepts (op : Op) (w : Word) : Bool := w &&& op.mask == op.pattern

/-! ### The decoder -/

/-- Why a word is not one of a row's. -/
inductive Reject where
  /-- A bit the row fixes has the other value: the operation produces no such word (R81). -/
  | fixedBits (op : Op)
  /-- Not 32 bits: the identifier "is always exactly 32 bits" (R86). -/
  | width (nbits : Nat)
  deriving DecidableEq, Repr

/-- What the decoder answers. -/
inductive Decoded where
  | instr (i : Instr)
  | rejected (why : Reject)
  deriving DecidableEq, Repr

/-- The operation of a row whose operands are a word's fields (letters `d`, `s`, `t`, `n` of the table), or, for
an extractor, whose operand is the word. -/
def operandsOf (op : Op) (w : Word) : Instr :=
  match op with
  | .encode => .encode (fieldDirection w).toNat (fieldType w).toNat (fieldNumber w).toNat (fieldSize w).toNat
  | .encodeNone => .encodeNone (fieldType w).toNat (fieldNumber w).toNat
  | .encodeRead => .encodeRead (fieldType w).toNat (fieldNumber w).toNat (fieldSize w).toNat
  | .encodeWrite => .encodeWrite (fieldType w).toNat (fieldNumber w).toNat (fieldSize w).toNat
  | .encodeReadWrite => .encodeReadWrite (fieldType w).toNat (fieldNumber w).toNat (fieldSize w).toNat
  | .decodeDirection => .decodeDirection w
  | .decodeType => .decodeType w
  | .decodeNumber => .decodeNumber w
  | .decodeSize => .decodeSize w

/-- The operation a row reads from a word, total: every row and word is answered. -/
def decode (op : Op) (w : Word) : Decoded :=
  if op.accepts w then .instr (operandsOf op w) else .rejected (.fixedBits op)

/-- The row a word is read by where no unit has been chosen: "a decoder written from the table alone is a
classifier of identifier words by direction" (R81, R128).  The row with the most fixed bits is taken; a word of
direction NONE with a size other than 0 is ENCODE's alone (40_pack.md R109).  DESIGN CHOICE, log entry 2. -/
def classify (w : Word) : Op :=
  match directionName w with
  | .none => if fieldSize w = 0 then .encodeNone else .encode
  | .write => .encodeWrite
  | .read => .encodeRead
  | .readWrite => .encodeReadWrite

/-- The decoder on `nbits` bits of value `w`, total, rejecting by name: an identifier is always exactly ID_WIDTH = 32
bits (R70, R86). -/
def decodeBits (nbits w : Nat) : Decoded :=
  if nbits = 32 ∧ w < 2 ^ 32 then
    decode (classify (BitVec.ofNat 32 w)) (BitVec.ofNat 32 w)
  else .rejected (.width nbits)

/-- The instruction the decoder reads from a table word of `nbits` bits, bit 0 least significant. -/
def decodeTableWord (nbits w : Nat) : Option Instr :=
  match decodeBits nbits w with
  | .instr i => some i
  | .rejected _ => none

/-! ### The encoder -/

/-- The identifier word of an operation: its operands in their fields and the row's fixed bits (the encoding
column of R81's table); for an extractor, the identifier itself. -/
def encode : Instr → Word
  | .encode direction type number size =>
      assemble (BitVec.ofNat 2 direction) (BitVec.ofNat 14 size) (BitVec.ofNat 8 type) (BitVec.ofNat 8 number)
  | .encodeNone type number => assemble 0b00#2 0#14 (BitVec.ofNat 8 type) (BitVec.ofNat 8 number)
  | .encodeRead type number size => assemble 0b10#2 (BitVec.ofNat 14 size) (BitVec.ofNat 8 type) (BitVec.ofNat 8 number)
  | .encodeWrite type number size => assemble 0b01#2 (BitVec.ofNat 14 size) (BitVec.ofNat 8 type) (BitVec.ofNat 8 number)
  | .encodeReadWrite type number size => assemble 0b11#2 (BitVec.ofNat 14 size) (BitVec.ofNat 8 type) (BitVec.ofNat 8 number)
  | .decodeDirection id => id
  | .decodeType id => id
  | .decodeNumber id => id
  | .decodeSize id => id

end Sys2Proof
end

