-- ==== Sys2Proof/Machine/State.lean ====
section
/-! DEFINITION. The state.  The spec gives the block NO state (10_state.md R20 to R24, R31 to R33): `Block`
has no fields.  What stands beside it is the host's side, in which R209 lets a model embed the block: the values
the host holds on the input ports, whether it has connected `enc_id` to `dec_id` (60_exceptions.md R187), its
list of acts still to come, and the list of results it has observed.  No value of the block's is kept anywhere: outputs
are computed from the input ports (Machine/Ops.lean).  Log entries 1, 4 and 7. -/

namespace Sys2Proof.Machine

/-- The block's own state: none.  "A model's machine state is therefore the unit type (or has no fields)" (R20). -/
structure Block where
  deriving DecidableEq, Repr

/-- Values of the five input ports (10_state.md R35, R37), each a word of W_IN = 32 bits, two-valued
by type (R42). -/
structure Inputs where
  /-- `enc_direction`, bits 1:0 used (R35). -/
  enc_direction : Word
  /-- `enc_type`, bits 7:0 used (R35). -/
  enc_type : Word
  /-- `enc_number`, bits 7:0 used (R35). -/
  enc_number : Word
  /-- `enc_size`, bits 13:0 used (R35). -/
  enc_size : Word
  /-- `dec_id`, shared by the four extractors (R37). -/
  dec_id : Word
  deriving DecidableEq, Repr

/-- The five output ports (10_state.md R36, R38). -/
inductive OutPort where
  | enc_id | dec_direction | dec_type | dec_number | dec_size
  deriving DecidableEq, Repr

/-- Where the identifier port `dec_id` gets its value: from the host, or from `enc_id`, which the host has connected to it
(10_state.md R40, 60_exceptions.md R187). -/
inductive IdSource where
  | host | enc_id
  deriving DecidableEq, Repr

/-- A result the host has read from an output port (00_scope.md R16). -/
structure Observation where
  port : OutPort
  value : Word
  deriving DecidableEq, Repr

/-- One act of the host, of the kinds R187 gives it: "the host may present any values on any input ports at any time,
change them at any time, use any subset of the units, ignore any output, and connect `enc_id` to `dec_id`". -/
inductive HostAct where
  /-- Use one operation: drive its unit's inputs and record its result (R209). -/
  | use (i : Instr)
  /-- Put `p` on all input ports at once, with `dec_id` fed from `src`, and record the outputs listed in `read`, all read
  at that one instant: several units at once, or none; an output not listed is ignored. -/
  | assign (p : Inputs) (src : IdSource) (read : List OutPort)
  deriving DecidableEq, Repr

/-- The machine as the host runs it (R209): the block, which holds nothing, and the host's side. -/
structure State where
  /-- The block's state (R20). -/
  block : Block
  /-- What the host holds on the input ports (its value for `dec_id` is unused while `enc_id` is connected there). -/
  inputs : Inputs
  /-- Whether the host drives `dec_id` or has connected `enc_id` to it (R40, R187). -/
  idSource : IdSource
  /-- The host's acts still to come, next first: "the host's finite list of operand presentations" (R209). -/
  pending : List HostAct
  /-- "The list of results observed" (R209), oldest first: one for each use, one for each output an assignment reads. -/
  observed : List Observation
  deriving DecidableEq, Repr

/-- Why a step could end in a fault: never.  The fault set is empty by the spec's word (60_exceptions.md R170, R186),
so this type has no constructor. -/
inductive Fault where
  deriving DecidableEq, Repr

/-- Why a step could be refused.  The spec's refusal set is empty (R186). -/
inductive Refusal where
  /-- Raised by an arm of `exec` that has no meaning yet; no arm raises it now.  Safe. -/
  | notModelled (mnemonic : String)
  deriving DecidableEq, Repr

/-- All input ports at 0. -/
def Inputs.zero : Inputs :=
  { enc_direction := 0, enc_type := 0, enc_number := 0, enc_size := 0, dec_id := 0 }

/-- The machine right after a reset of the surrounding system: the block has nothing to reset (R41, R200), the host has
presented and observed nothing.  The spec gives the input ports no reset value; 0, driven by the host, is a DESIGN
CHOICE (log entry 4), the case R202 describes. -/
def State.reset : State :=
  { block := {}, inputs := Inputs.zero, idSource := .host, pending := [], observed := [] }

end Sys2Proof.Machine
end

