-- ==== Sys2Proof/Machine/Flags.lean ====
section
/-! DEFINITION. The block has no flags, condition codes or predicates (10_state.md R23), so no flag
computation exists.  The one thing the spec reads bit by bit is a direction value, a two-bit mask (30_encoding.md R75,
41_extract.md R128): a host tests its bits. -/

namespace Sys2Proof.Machine

/-- The host's test `direction & WRITE` (R128): bit 0 of a direction value. -/
def hasWrite (direction : Nat) : Bool := direction &&& Config.WRITE != 0

/-- The host's test `direction & READ` (R128): bit 1 of a direction value. -/
def hasRead (direction : Nat) : Bool := direction &&& Config.READ != 0

end Sys2Proof.Machine
end

