-- ==== Sys2Proof/Machine/Operands.lean ====
section
/-! DEFINITION. Operand assembly and field extraction (30_encoding.md R77, R78), the only two operand
forms of the block. -/

namespace Sys2Proof.Machine

/-- Assembly of one packer operand: `(v & M) << O`, the mask applied before the shift (R77), on unsigned integers of any
size (00_scope.md R11). -/
def placeField (v mask offset : Nat) : Nat := (v &&& mask) <<< offset

/-- Extraction of one field: `(id >> O) & M`, a logical right shift and then the unshifted mask (R78).  The result is
right-aligned at bit 0 and zero-extended to the W_OUT = 32 bits of its port, never sign-extended (R79, 41_extract.md
R125). -/
def takeField (id : Word) (offset mask : Nat) : Word := (id >>> offset) &&& BitVec.ofNat 32 mask

end Sys2Proof.Machine
end

