-- ==== Sys2Proof/Machine/Ops.lean ====
section
/-! DEFINITION. The named operations: the source's five functions, the four derived forms, the five units
on their ports, and the acts of a host.  There is no exception to take and none to return
from (60_exceptions.md R170, R175, R176), no memory operation (20_memory.md R50, R63) and no register
access (10_state.md R21), so none is defined. -/

namespace Sys2Proof.Machine

/-! ### The source's functions, on unsigned integers -/

/-- ENCODE: mask, shift and OR the four operands (40_pack.md R100). -/
def pack (direction type number size : Nat) : Word :=
  BitVec.ofNat 32
    (placeField direction Config.DIRECTION_MASK Config.DIRECTION_OFFSET
      ||| placeField type Config.TYPE_MASK Config.TYPE_OFFSET
      ||| placeField number Config.NUMBER_MASK Config.NUMBER_OFFSET
      ||| placeField size Config.SIZE_MASK Config.SIZE_OFFSET)

/-- ENCODE_NONE = ENCODE(NONE, type, number, 0) (R103, R107). -/
def packNone (type number : Nat) : Word := pack Config.NONE type number 0

/-- ENCODE_READ = ENCODE(READ, type, number, size) (R104, R107). -/
def packRead (type number size : Nat) : Word := pack Config.READ type number size

/-- ENCODE_WRITE = ENCODE(WRITE, type, number, size) (R105, R107). -/
def packWrite (type number size : Nat) : Word := pack Config.WRITE type number size

/-- ENCODE_READ_WRITE = ENCODE(READ | WRITE, type, number, size) (R106, R107). -/
def packReadWrite (type number size : Nat) : Word := pack (Config.READ ||| Config.WRITE) type number size

/-- DECODE_DIRECTION (41_extract.md R120). -/
def extractDirection (id : Word) : Word := takeField id Config.DIRECTION_OFFSET Config.DIRECTION_MASK

/-- DECODE_TYPE (R121). -/
def extractType (id : Word) : Word := takeField id Config.TYPE_OFFSET Config.TYPE_MASK

/-- DECODE_NUMBER (R122). -/
def extractNumber (id : Word) : Word := takeField id Config.NUMBER_OFFSET Config.NUMBER_MASK

/-- DECODE_SIZE (R123). -/
def extractSize (id : Word) : Word := takeField id Config.SIZE_OFFSET Config.SIZE_MASK

/-! ### The units on their ports -/

/-- What each output port carries, a function of the present input ports and of nothing else (10_state.md R36,
R38, R40): PACK drives `enc_id`, XDIR, XTYPE, XNUM and XSIZE the four `dec_*` ports (00_scope.md R15). -/
def readOut : OutPort → Inputs → Word
  | .enc_id, p => pack p.enc_direction.toNat p.enc_type.toNat p.enc_number.toNat p.enc_size.toNat
  | .dec_direction, p => extractDirection p.dec_id
  | .dec_type, p => extractType p.dec_id
  | .dec_number, p => extractNumber p.dec_id
  | .dec_size, p => extractSize p.dec_id

/-- The host drives the packer's four input ports, each W_IN = 32 bits wide (R35). -/
def drivePacker (direction type number size : Nat) (p : Inputs) : Inputs :=
  { p with
    enc_direction := BitVec.ofNat 32 direction
    enc_type := BitVec.ofNat 32 type
    enc_number := BitVec.ofNat 32 number
    enc_size := BitVec.ofNat 32 size }

/-- The host drives the extractors' shared input port (R37). -/
def driveIdentifier (id : Word) (p : Inputs) : Inputs := { p with dec_id := id }

/-- The host connects `enc_id` to `dec_id` (R40, R187): the identifier port carries what the packer drives. -/
def connectEncToDec (p : Inputs) : Inputs := { p with dec_id := readOut .enc_id p }

/-- What the input ports carry when `dec_id` is fed from `src` and the host holds `p`. -/
def carried (src : IdSource) (p : Inputs) : Inputs :=
  match src with
  | .host => p
  | .enc_id => connectEncToDec p

/-- What the input ports carry now. -/
def State.ports (s : State) : Inputs := carried s.idSource s.inputs

/-! ### The host's acts -/

/-- What the host reads on an output port. -/
def observe (port : OutPort) (p : Inputs) : Observation := { port := port, value := readOut port p }

/-- The host puts `p` on the input ports and feeds `dec_id` from `src`; nothing is read. -/
def holdInputs (p : Inputs) (src : IdSource) (s : State) : State := { s with inputs := p, idSource := src }

/-- The host reads output ports, all at one instant, and records them in the order listed.  The outputs are those of the
present inputs (70_reset_and_hazards.md R205), and the block keeps nothing (R20). -/
def readPorts (ports : List OutPort) (s : State) : State :=
  { s with observed := s.observed ++ ports.map (fun port => observe port s.ports) }

/-- Any values on any input ports, any outputs read or ignored, `enc_id` connected to `dec_id` or not (R187). -/
def hostAssign (p : Inputs) (src : IdSource) (read : List OutPort) (s : State) : State :=
  readPorts read (holdInputs p src s)

/-- A use of the unit PACK: drive the `enc_*` ports, read `enc_id` (R35, R36).  Where `enc_id` is connected to `dec_id`, the
new word reaches the extractors. -/
def usePacker (direction type number size : Nat) (s : State) : State :=
  readPorts [.enc_id] (holdInputs (drivePacker direction type number size s.inputs) s.idSource s)

/-- A use of an extractor on an identifier the host gives: drive `dec_id`, read the extractor's port (R37, R38).  The
host drives `dec_id` itself from then on, so that `enc_id` is no longer connected there.  Log entry 10. -/
def useExtractor (port : OutPort) (id : Word) (s : State) : State :=
  readPorts [port] (holdInputs (driveIdentifier id s.inputs) .host s)

/-! ### What the host does next -/

/-- The next act and the state in which it is done; none at the end of the host's list (R209). -/
def fetch (s : State) : Option (HostAct × State) :=
  match s.pending with
  | [] => none
  | a :: rest => some (a, { s with pending := rest })

/-- The use of `i` is put before the host's list, so that it is presented next. -/
def presentNext (i : Instr) (s : State) : State := { s with pending := .use i :: s.pending }

end Sys2Proof.Machine
end

