-- ==== Sys2Proof/Machine/Extract.lean ====
section
/-! DEFINITION. The extractor family: DECODE_DIRECTION, DECODE_TYPE, DECODE_NUMBER, DECODE_SIZE (41_extract.md).
Each accepts every word and returns a value (R126). -/

namespace Sys2Proof.Machine

/-- DECODE_DIRECTION, unit XDIR (R120). -/
def execDecodeDirection (id : Word) (s : State) : Host.Outcome State Fault Refusal :=
  .next (useExtractor .dec_direction id s)

/-- DECODE_TYPE, unit XTYPE (R121). -/
def execDecodeType (id : Word) (s : State) : Host.Outcome State Fault Refusal :=
  .next (useExtractor .dec_type id s)

/-- DECODE_NUMBER, unit XNUM (R122). -/
def execDecodeNumber (id : Word) (s : State) : Host.Outcome State Fault Refusal :=
  .next (useExtractor .dec_number id s)

/-- DECODE_SIZE, unit XSIZE (R123). -/
def execDecodeSize (id : Word) (s : State) : Host.Outcome State Fault Refusal :=
  .next (useExtractor .dec_size id s)

end Sys2Proof.Machine
end

