-- ==== Sys2Proof/Machine/Pack.lean ====
section
/-! DEFINITION. The packer family: ENCODE and its four derived forms (40_pack.md).  Each derived form is the unit
PACK with `enc_direction` tied to a constant and, for ENCODE_NONE, `enc_size` tied to 0 (R107).  No
operand value is rejected: each is truncated to its field (R101), and nothing is raised (60_exceptions.md R170). -/

namespace Sys2Proof.Machine

/-- ENCODE (R100). -/
def execEncode (direction type number size : Nat) (s : State) : Host.Outcome State Fault Refusal :=
  .next (usePacker direction type number size s)

/-- ENCODE_NONE (R103). -/
def execEncodeNone (type number : Nat) (s : State) : Host.Outcome State Fault Refusal :=
  .next (usePacker Config.NONE type number 0 s)

/-- ENCODE_READ (R104). -/
def execEncodeRead (type number size : Nat) (s : State) : Host.Outcome State Fault Refusal :=
  .next (usePacker Config.READ type number size s)

/-- ENCODE_WRITE (R105). -/
def execEncodeWrite (type number size : Nat) (s : State) : Host.Outcome State Fault Refusal :=
  .next (usePacker Config.WRITE type number size s)

/-- ENCODE_READ_WRITE (R106). -/
def execEncodeReadWrite (type number size : Nat) (s : State) : Host.Outcome State Fault Refusal :=
  .next (usePacker (Config.READ ||| Config.WRITE) type number size s)

end Sys2Proof.Machine
end

