-- ==== Sys2Proof/Machine/Dispatch.lean ====
section
/-! DEFINITION. One arm per operation. -/

namespace Sys2Proof.Machine

def exec (i : Instr) (s : State) : Host.Outcome State Fault Refusal :=
  match i with
  | .encode direction type number size => Sys2Proof.Machine.execEncode direction type number size s
  | .encodeNone type number => Sys2Proof.Machine.execEncodeNone type number s
  | .encodeRead type number size => Sys2Proof.Machine.execEncodeRead type number size s
  | .encodeWrite type number size => Sys2Proof.Machine.execEncodeWrite type number size s
  | .encodeReadWrite type number size => Sys2Proof.Machine.execEncodeReadWrite type number size s
  | .decodeDirection id => Sys2Proof.Machine.execDecodeDirection id s
  | .decodeType id => Sys2Proof.Machine.execDecodeType id s
  | .decodeNumber id => Sys2Proof.Machine.execDecodeNumber id s
  | .decodeSize id => Sys2Proof.Machine.execDecodeSize id s

end Sys2Proof.Machine
end

