-- ==== Sys2Proof/Machine/Step.lean ====
section
/-! DEFINITION. One step: the host's next act. -/

namespace Sys2Proof.Machine

/-- The host's next act is done, and completes in the same step (70_reset_and_hazards.md R205): a use of an operation, or any
assignment of the input ports with any outputs read (60_exceptions.md R187).  At the end of its list nothing is done and nothing changes: the block "has no run and therefore no end of run" and
never stops (R209).  DESIGN CHOICE, log entry 5. -/
def step (s : State) : Host.Outcome State Fault Refusal :=
  match fetch s with
  | none => .next s
  | some (.use i, s') => exec i s'
  | some (.assign p src read, s') => .next (hostAssign p src read s')

/-- `s` with the operation the decoder reads from a table word put first in the host's list, so that the very
next step presents it; `s` itself where the decoder rejects the word.  Log entry 6. -/
def State.withFetchWord (s : State) (nbits w : Nat) : State :=
  match decodeTableWord nbits w with
  | some i => presentNext i s
  | none => s

end Sys2Proof.Machine
end

