-- ==== Sys2Proof/Safety.lean ====
section
/-! DEFINITION. The terms claims use: the result the spec gives an operation, the range of each output
port, and the invariant of every run. -/

namespace Sys2Proof.Machine

/-- The result the spec gives an operation, by the source's functions on its operands alone: no port, no
history (00_scope.md R16, 10_state.md R20). -/
def resultOf : Instr → Observation
  | .encode direction type number size => { port := .enc_id, value := pack direction type number size }
  | .encodeNone type number => { port := .enc_id, value := packNone type number }
  | .encodeRead type number size => { port := .enc_id, value := packRead type number size }
  | .encodeWrite type number size => { port := .enc_id, value := packWrite type number size }
  | .encodeReadWrite type number size => { port := .enc_id, value := packReadWrite type number size }
  | .decodeDirection id => { port := .dec_direction, value := extractDirection id }
  | .decodeType id => { port := .dec_type, value := extractType id }
  | .decodeNumber id => { port := .dec_number, value := extractNumber id }
  | .decodeSize id => { port := .dec_size, value := extractSize id }

/-- What one act of the host records, whatever came before it: the operation's result for a use, the listed outputs of the
assigned inputs for an assignment. -/
def actResults : HostAct → List Observation
  | .use i => [resultOf i]
  | .assign p src read => read.map (fun port => observe port (carried src p))

/-- The largest value each output port carries: the field's mask for an extractor (41_extract.md R125), every bit
for `enc_id` (42_codec_laws.md R153). -/
def maxValue : OutPort → Nat
  | .enc_id => 0xFFFFFFFF
  | .dec_direction => 3
  | .dec_type => 255
  | .dec_number => 255
  | .dec_size => 16383

/-- Every recorded result lies in its port's range (R125). -/
def State.ResultsInRange (s : State) : Prop := ∀ o ∈ s.observed, o.value.toNat ≤ maxValue o.port

/-- Every recorded result is what its port carries for some assignment of the input ports: "what can be observed of the
block is, for every assignment of values to its input ports, the values on its output ports" (00_scope.md R16). -/
def State.ResultsObservable (s : State) : Prop := ∀ o ∈ s.observed, ∃ p : Inputs, o = observe o.port p

/-- The invariant of every run. -/
structure State.Inv (s : State) : Prop where
  resultsInRange : s.ResultsInRange
  resultsObservable : s.ResultsObservable

/-- A run of `k` steps that no fault or refusal ends (60_exceptions.md R186). -/
def RunsSafely (k : Nat) (s : State) : Prop := ∃ t, Host.Core.run Sys2Proof.core k s = .next t

end Sys2Proof.Machine
end

