-- ==== Sys2Proof/Certificates/Slice0/Obligations.lean ====
section
/-! DEFINITION. The statements for the provers, from the spec's numbered rules.  Numbers are written out from the
spec rather than taken from Config, so that a wrong constant of the model would make a statement false. -/

open Sys2Proof Sys2Proof.Machine

/-! ### Constants -/

/-- 10_state.md R25 to R28: the exported constants. -/
def Obligations.ConstantsHaveTheSpecValues : Prop :=
  (Config.NUMBER_WIDTH = 8 ∧ Config.TYPE_WIDTH = 8 ∧ Config.SIZE_WIDTH = 14 ∧ Config.DIRECTION_WIDTH = 2
    ∧ Config.NUMBER_WIDTH + Config.TYPE_WIDTH + Config.SIZE_WIDTH + Config.DIRECTION_WIDTH = 32)
  ∧ (Config.NUMBER_OFFSET = 0 ∧ Config.TYPE_OFFSET = 8 ∧ Config.SIZE_OFFSET = 16 ∧ Config.DIRECTION_OFFSET = 30
    ∧ Config.TYPE_OFFSET = Config.NUMBER_OFFSET + Config.NUMBER_WIDTH
    ∧ Config.SIZE_OFFSET = Config.TYPE_OFFSET + Config.TYPE_WIDTH
    ∧ Config.DIRECTION_OFFSET = Config.SIZE_OFFSET + Config.SIZE_WIDTH
    ∧ Config.DIRECTION_OFFSET + Config.DIRECTION_WIDTH = Config.ID_WIDTH)
  ∧ (Config.NUMBER_MASK = 0xFF ∧ Config.TYPE_MASK = 0xFF ∧ Config.SIZE_MASK = 0x3FFF ∧ Config.DIRECTION_MASK = 0x3
    ∧ Config.NUMBER_MASK = 2 ^ Config.NUMBER_WIDTH - 1 ∧ Config.TYPE_MASK = 2 ^ Config.TYPE_WIDTH - 1
    ∧ Config.SIZE_MASK = 2 ^ Config.SIZE_WIDTH - 1 ∧ Config.DIRECTION_MASK = 2 ^ Config.DIRECTION_WIDTH - 1)
  ∧ (Config.NONE = 0 ∧ Config.WRITE = 1 ∧ Config.READ = 2 ∧ Config.READ ||| Config.WRITE = 3
    ∧ Config.WRITE ||| Config.READ = 3 ∧ Config.READ &&& Config.WRITE = 0)

/-- 42_codec_laws.md R145: the in-place masks are pairwise disjoint and cover the word. -/
def Obligations.InPlaceMasksTileTheWord : Prop :=
  Config.NUMBER_FIELD = 0x000000FF#32 ∧ Config.TYPE_FIELD = 0x0000FF00#32 ∧ Config.SIZE_FIELD = 0x3FFF0000#32
  ∧ Config.DIRECTION_FIELD = 0xC0000000#32
  ∧ Config.NUMBER_FIELD &&& Config.TYPE_FIELD = 0 ∧ Config.NUMBER_FIELD &&& Config.SIZE_FIELD = 0
  ∧ Config.NUMBER_FIELD &&& Config.DIRECTION_FIELD = 0 ∧ Config.TYPE_FIELD &&& Config.SIZE_FIELD = 0
  ∧ Config.TYPE_FIELD &&& Config.DIRECTION_FIELD = 0 ∧ Config.SIZE_FIELD &&& Config.DIRECTION_FIELD = 0
  ∧ Config.NUMBER_FIELD ||| Config.TYPE_FIELD ||| Config.SIZE_FIELD ||| Config.DIRECTION_FIELD = 0xFFFFFFFF#32
  ∧ Config.NUMBER_FIELD.toNat + Config.TYPE_FIELD.toNat + Config.SIZE_FIELD.toNat + Config.DIRECTION_FIELD.toNat
      = 2 ^ 32 - 1
  ∧ 2 ^ 8 * 2 ^ 8 * 2 ^ 14 * 2 ^ 2 = 2 ^ 32

/-! ### The packer: completion, result and corner cases -/

/-- 40_pack.md R100: ENCODE completes on any operands and any state, drives the packer's ports, records the packed word and
changes nothing else; the word's formula loses no bit; the corner cases and the worked example.  The next state is the model's: the host's record
(R209, log entries 1 and 9), ports of 32 bits (R35, decision D4, log entry 3), `dec_id` held meanwhile (log entry 7). -/
def Obligations.EncodeCompletesWithThePackedWord : Prop :=
  (∀ (d t n z : Nat) (s : State),
    exec (.encode d t n z) s = .next
      { s with
        inputs := { enc_direction := BitVec.ofNat 32 d, enc_type := BitVec.ofNat 32 t, enc_number := BitVec.ofNat 32 n,
                    enc_size := BitVec.ofNat 32 z, dec_id := s.inputs.dec_id }
        observed := s.observed ++ [⟨.enc_id, BitVec.ofNat 32
          (((d &&& 0x3) <<< 30) ||| ((t &&& 0xFF) <<< 8) ||| ((n &&& 0xFF) <<< 0) ||| ((z &&& 0x3FFF) <<< 16))⟩] }
    ∧ pack d t n z = BitVec.ofNat 32
        (((d &&& 0x3) <<< 30) ||| ((t &&& 0xFF) <<< 8) ||| ((n &&& 0xFF) <<< 0) ||| ((z &&& 0x3FFF) <<< 16))
    ∧ ((d &&& 0x3) <<< 30) ||| ((t &&& 0xFF) <<< 8) ||| ((n &&& 0xFF) <<< 0) ||| ((z &&& 0x3FFF) <<< 16) < 2 ^ 32
    ∧ pack d t n z = pack (d % 2 ^ 2) (t % 2 ^ 8) (n % 2 ^ 8) (z % 2 ^ 14))
  ∧ pack 0 0 0 0 = 0x00000000#32 ∧ pack 3 255 255 16383 = 0xFFFFFFFF#32
  ∧ pack 0 0 256 0 = 0#32 ∧ pack 0 256 0 0 = 0#32 ∧ pack 0 0 0 16384 = 0#32 ∧ pack 4 0 0 0 = 0#32
  ∧ pack 0xFFFFFFFF 0xFFFFFFFF 0xFFFFFFFF 0xFFFFFFFF = 0xFFFFFFFF#32
  ∧ pack Config.WRITE 0x56 18 4 = 1074026002#32 ∧ 1074026002#32 = 0x40045612#32

/-- 40_pack.md R103: ENCODE_NONE completes with its word, and its corner cases.  The next state is the model's: the host's record
(R209, log entries 1 and 9), ports of 32 bits (R35, decision D4, log entry 3), `dec_id` held meanwhile (log entry 7). -/
def Obligations.EncodeNoneCompletes : Prop :=
  (∀ (t n : Nat) (s : State),
    exec (.encodeNone t n) s = .next
      { s with
        inputs := { enc_direction := 0#32, enc_type := BitVec.ofNat 32 t, enc_number := BitVec.ofNat 32 n,
                    enc_size := 0#32, dec_id := s.inputs.dec_id }
        observed := s.observed ++ [⟨.enc_id, BitVec.ofNat 32
          (((t &&& 0xFF) <<< 8) ||| (n &&& 0xFF))⟩] }
    ∧ packNone t n = pack 0 t n 0
    ∧ packNone t n = BitVec.ofNat 32 (((t &&& 0xFF) <<< 8) ||| (n &&& 0xFF))
    ∧ packNone t n &&& 0xFFFF0000#32 = 0x00000000#32
    ∧ (packNone t n).toNat < 0x00010000
    ∧ packNone t n = packNone (t % 256) (n % 256))
  ∧ packNone 0 0 = 0#32 ∧ packNone 0x56 1 = 0x00005601#32 ∧ packNone 0x56 1 = 22017#32

/-- 40_pack.md R104: ENCODE_READ completes with its word, and its corner cases.  The next state is the model's: the host's record
(R209, log entries 1 and 9), ports of 32 bits (R35, decision D4, log entry 3), `dec_id` held meanwhile (log entry 7). -/
def Obligations.EncodeReadCompletes : Prop :=
  (∀ (t n z : Nat) (s : State),
    exec (.encodeRead t n z) s = .next
      { s with
        inputs := { enc_direction := 2#32, enc_type := BitVec.ofNat 32 t, enc_number := BitVec.ofNat 32 n,
                    enc_size := BitVec.ofNat 32 z, dec_id := s.inputs.dec_id }
        observed := s.observed ++ [⟨.enc_id, BitVec.ofNat 32
          (0x80000000 ||| ((z &&& 0x3FFF) <<< 16) ||| ((t &&& 0xFF) <<< 8) ||| (n &&& 0xFF))⟩] }
    ∧ packRead t n z = pack 2 t n z
    ∧ packRead t n z = BitVec.ofNat 32 (0x80000000 ||| ((z &&& 0x3FFF) <<< 16) ||| ((t &&& 0xFF) <<< 8) ||| (n &&& 0xFF))
    ∧ packRead t n z &&& 0xC0000000#32 = 0x80000000#32
    ∧ packRead t n z = packRead (t % 256) (n % 256) (z % 16384)
    ∧ packRead t n 16384 = packRead t n 0)
  ∧ packRead 0 0 0 = 0x80000000#32 ∧ packRead 0x56 18 4 = 0x80045612#32 ∧ packRead 0x56 18 4 = 2147767826#32

/-- 40_pack.md R105: ENCODE_WRITE completes with its word, and its corner cases.  The next state is the model's: the host's record
(R209, log entries 1 and 9), ports of 32 bits (R35, decision D4, log entry 3), `dec_id` held meanwhile (log entry 7). -/
def Obligations.EncodeWriteCompletes : Prop :=
  (∀ (t n z : Nat) (s : State),
    exec (.encodeWrite t n z) s = .next
      { s with
        inputs := { enc_direction := 1#32, enc_type := BitVec.ofNat 32 t, enc_number := BitVec.ofNat 32 n,
                    enc_size := BitVec.ofNat 32 z, dec_id := s.inputs.dec_id }
        observed := s.observed ++ [⟨.enc_id, BitVec.ofNat 32
          (0x40000000 ||| ((z &&& 0x3FFF) <<< 16) ||| ((t &&& 0xFF) <<< 8) ||| (n &&& 0xFF))⟩] }
    ∧ packWrite t n z = pack 1 t n z
    ∧ packWrite t n z = BitVec.ofNat 32 (0x40000000 ||| ((z &&& 0x3FFF) <<< 16) ||| ((t &&& 0xFF) <<< 8) ||| (n &&& 0xFF))
    ∧ packWrite t n z &&& 0xC0000000#32 = 0x40000000#32
    ∧ packWrite t n z = packWrite (t % 256) (n % 256) (z % 16384))
  ∧ packWrite 0 0 0 = 0x40000000#32 ∧ packWrite 0x56 18 4 = 0x40045612#32 ∧ packWrite 0x56 18 4 = 1074026002#32

/-- 40_pack.md R106: ENCODE_READ_WRITE completes with its word, and its corner cases.  The next state is the model's: the host's record
(R209, log entries 1 and 9), ports of 32 bits (R35, decision D4, log entry 3), `dec_id` held meanwhile (log entry 7). -/
def Obligations.EncodeReadWriteCompletes : Prop :=
  (∀ (t n z : Nat) (s : State),
    exec (.encodeReadWrite t n z) s = .next
      { s with
        inputs := { enc_direction := 3#32, enc_type := BitVec.ofNat 32 t, enc_number := BitVec.ofNat 32 n,
                    enc_size := BitVec.ofNat 32 z, dec_id := s.inputs.dec_id }
        observed := s.observed ++ [⟨.enc_id, BitVec.ofNat 32
          (0xC0000000 ||| ((z &&& 0x3FFF) <<< 16) ||| ((t &&& 0xFF) <<< 8) ||| (n &&& 0xFF))⟩] }
    ∧ packReadWrite t n z = pack 3 t n z
    ∧ packReadWrite t n z
        = BitVec.ofNat 32 (0xC0000000 ||| ((z &&& 0x3FFF) <<< 16) ||| ((t &&& 0xFF) <<< 8) ||| (n &&& 0xFF))
    ∧ packReadWrite t n z &&& 0xC0000000#32 = 0xC0000000#32
    ∧ packReadWrite t n z = packReadWrite (t % 256) (n % 256) (z % 16384))
  ∧ packReadWrite 0 0 0 = 0xC0000000#32 ∧ packReadWrite 255 255 16383 = 0xFFFFFFFF#32
  ∧ packReadWrite 1 1 1 = 0xC0010101#32 ∧ packReadWrite 1 1 1 = 3221291265#32

/-! ### The extractors: completion, result and corner cases -/

/-- 41_extract.md R120: DECODE_DIRECTION completes on any word with its slice, and its corner cases.  The next state is
the model's: the host's record (R209, log entries 1 and 9), the packer's ports held meanwhile (log entry 7), `dec_id` driven by the
host from then on (log entry 10). -/
def Obligations.DecodeDirectionCompletes : Prop :=
  (∀ (id : Word) (s : State),
    exec (.decodeDirection id) s = .next
      { s with
        inputs := { s.inputs with dec_id := id }
        idSource := .host
        observed := s.observed ++ [{ port := .dec_direction, value := (id.extractLsb' 30 2).setWidth 32 }] }
    ∧ extractDirection id = (id >>> 30) &&& 0x3#32
    ∧ extractDirection id = (id.extractLsb' 30 2).setWidth 32
    ∧ (extractDirection id).toNat = id.toNat / 2 ^ 30
    ∧ (extractDirection id).toNat ≤ 3)
  ∧ extractDirection 0x00000000#32 = 0 ∧ extractDirection 0xFFFFFFFF#32 = 3 ∧ extractDirection 0x3FFFFFFF#32 = 0
  ∧ extractDirection 0x40000000#32 = 1 ∧ extractDirection 0x80000000#32 = 2 ∧ extractDirection 0xC0000000#32 = 3
  ∧ pack (Config.WRITE ||| Config.READ) 1 1 1 = 0xC0010101#32 ∧ extractDirection 0xC0010101#32 = 3

/-- 41_extract.md R121: DECODE_TYPE completes on any word with its slice, and its corner cases.  The next state is
the model's: the host's record (R209, log entries 1 and 9), the packer's ports held meanwhile (log entry 7), `dec_id` driven by the
host from then on (log entry 10). -/
def Obligations.DecodeTypeCompletes : Prop :=
  (∀ (id : Word) (s : State),
    exec (.decodeType id) s = .next
      { s with
        inputs := { s.inputs with dec_id := id }
        idSource := .host
        observed := s.observed ++ [{ port := .dec_type, value := (id.extractLsb' 8 8).setWidth 32 }] }
    ∧ extractType id = (id >>> 8) &&& 0xFF#32
    ∧ extractType id = (id.extractLsb' 8 8).setWidth 32
    ∧ (extractType id).toNat = id.toNat / 2 ^ 8 % 256
    ∧ (extractType id).toNat ≤ 255)
  ∧ extractType 0x00000000#32 = 0 ∧ extractType 0xFFFFFFFF#32 = 255 ∧ extractType 0x0000FF00#32 = 255
  ∧ extractType 0xFFFF00FF#32 = 0 ∧ extractType 0x00000100#32 = 1
  ∧ pack Config.NONE 0x56 1 0 = 0x00005601#32 ∧ extractType 0x00005601#32 = 0x56 ∧ extractType 0x00005601#32 = 86

/-- 41_extract.md R122: DECODE_NUMBER completes on any word with its slice, and its corner cases.  The next state is
the model's: the host's record (R209, log entries 1 and 9), the packer's ports held meanwhile (log entry 7), `dec_id` driven by the
host from then on (log entry 10). -/
def Obligations.DecodeNumberCompletes : Prop :=
  (∀ (id : Word) (s : State),
    exec (.decodeNumber id) s = .next
      { s with
        inputs := { s.inputs with dec_id := id }
        idSource := .host
        observed := s.observed ++ [{ port := .dec_number, value := (id.extractLsb' 0 8).setWidth 32 }] }
    ∧ extractNumber id = (id >>> 0) &&& 0xFF#32 ∧ extractNumber id = id &&& 0xFF#32
    ∧ extractNumber id = (id.extractLsb' 0 8).setWidth 32
    ∧ (extractNumber id).toNat = id.toNat % 256
    ∧ (extractNumber id).toNat ≤ 255)
  ∧ extractNumber 0x00000000#32 = 0 ∧ extractNumber 0xFFFFFFFF#32 = 255 ∧ extractNumber 0xFFFFFF00#32 = 0
  ∧ extractNumber 0x00000001#32 = 1
  ∧ pack Config.NONE 0x56 70 0 = 0x00005646#32 ∧ extractNumber 0x00005646#32 = 70

/-- 41_extract.md R123: DECODE_SIZE completes on any word with its slice, and its corner cases.  The next state is
the model's: the host's record (R209, log entries 1 and 9), the packer's ports held meanwhile (log entry 7), `dec_id` driven by the
host from then on (log entry 10). -/
def Obligations.DecodeSizeCompletes : Prop :=
  (∀ (id : Word) (s : State),
    exec (.decodeSize id) s = .next
      { s with
        inputs := { s.inputs with dec_id := id }
        idSource := .host
        observed := s.observed ++ [{ port := .dec_size, value := (id.extractLsb' 16 14).setWidth 32 }] }
    ∧ extractSize id = (id >>> 16) &&& 0x3FFF#32
    ∧ extractSize id = (id.extractLsb' 16 14).setWidth 32
    ∧ (extractSize id).toNat = id.toNat / 2 ^ 16 % 16384
    ∧ (extractSize id).toNat ≤ 16383)
  ∧ extractSize 0x00000000#32 = 0 ∧ extractSize 0xFFFFFFFF#32 = 16383 ∧ extractSize 0x3FFF0000#32 = 16383
  ∧ extractSize 0xC000FFFF#32 = 0 ∧ extractSize 0x00010000#32 = 1 ∧ extractSize 0xC0040000#32 = 4
  ∧ extractSize 1074026002#32 = 4 ∧ extractSize 0x40045612#32 = 4

/-! ### Frames -/

/-- What a use of the packer leaves unchanged: the block, the host's list, the earlier results, the host's value for the
identifier port and where that port is fed from, and, while the host feeds it, the four extractor outputs (10_state.md R40,
20_memory.md R53).  That the host holds the other unit's port meanwhile is the model's choice (log entry 7). -/
def Obligations.PackerUseFrame : Prop :=
  ∀ (i : Instr) (s t : State), i.op.computedBy = .PACK → exec i s = .next t →
    t.block = s.block ∧ t.pending = s.pending ∧ t.inputs.dec_id = s.inputs.dec_id ∧ t.idSource = s.idSource
    ∧ (∃ v, t.observed = s.observed ++ [{ port := .enc_id, value := v }])
    ∧ ∀ port : OutPort, port ≠ .enc_id → s.idSource = .host → readOut port t.ports = readOut port s.ports

/-- What a use of an extractor leaves unchanged: the block, the host's list, the earlier results, the four packer ports and
the packer's output.  That the host holds the packer's ports meanwhile, and drives `dec_id` itself from then on, is the
model's choice (log entries 7 and 10). -/
def Obligations.ExtractorUseFrame : Prop :=
  ∀ (i : Instr) (s t : State), i.op.computedBy ≠ .PACK → exec i s = .next t →
    t.block = s.block ∧ t.pending = s.pending ∧ t.idSource = .host
    ∧ t.inputs.enc_direction = s.inputs.enc_direction ∧ t.inputs.enc_type = s.inputs.enc_type
    ∧ t.inputs.enc_number = s.inputs.enc_number ∧ t.inputs.enc_size = s.inputs.enc_size
    ∧ (∃ o : Observation, o.port ≠ .enc_id ∧ t.observed = s.observed ++ [o])
    ∧ readOut .enc_id t.ports = readOut .enc_id s.ports

/-! ### The ports -/

/-- 10_state.md R40 (the spec's decision D7): each output depends only on the inputs of its own unit. -/
def Obligations.OutputsDependOnTheirOwnUnit : Prop :=
  (∀ p q : Inputs, p.enc_direction = q.enc_direction → p.enc_type = q.enc_type → p.enc_number = q.enc_number →
    p.enc_size = q.enc_size → readOut .enc_id p = readOut .enc_id q)
  ∧ ∀ (p q : Inputs) (port : OutPort), port ≠ .enc_id → p.dec_id = q.dec_id → readOut port p = readOut port q

/-- 40_pack.md R102 (the spec's own inference from R100 and R145): the packer is wiring, at the ports and on
operands of any size. -/
def Obligations.PackerOutputIsWiring : Prop :=
  (∀ p : Inputs,
    (readOut .enc_id p).extractLsb' 30 2 = p.enc_direction.extractLsb' 0 2
    ∧ (readOut .enc_id p).extractLsb' 16 14 = p.enc_size.extractLsb' 0 14
    ∧ (readOut .enc_id p).extractLsb' 8 8 = p.enc_type.extractLsb' 0 8
    ∧ (readOut .enc_id p).extractLsb' 0 8 = p.enc_number.extractLsb' 0 8)
  ∧ ∀ d t n z : Nat,
    pack d t n z = BitVec.ofNat 2 d ++ BitVec.ofNat 14 z ++ BitVec.ofNat 8 t ++ BitVec.ofNat 8 n

/-- 41_extract.md R127 (the spec's own inference from R120 to R123): the extractors are wiring, every higher output
bit tied to 0. -/
def Obligations.ExtractorOutputsAreWiring : Prop :=
  ∀ p : Inputs,
    (readOut .dec_direction p).extractLsb' 0 2 = p.dec_id.extractLsb' 30 2
    ∧ (readOut .dec_direction p).extractLsb' 2 30 = 0
    ∧ (readOut .dec_type p).extractLsb' 0 8 = p.dec_id.extractLsb' 8 8
    ∧ (readOut .dec_type p).extractLsb' 8 24 = 0
    ∧ (readOut .dec_number p).extractLsb' 0 8 = p.dec_id.extractLsb' 0 8
    ∧ (readOut .dec_number p).extractLsb' 8 24 = 0
    ∧ (readOut .dec_size p).extractLsb' 0 14 = p.dec_id.extractLsb' 16 14
    ∧ (readOut .dec_size p).extractLsb' 14 18 = 0

/-- 70_reset_and_hazards.md R207 (the spec's decision D11): each output bit is wired from at most one input bit,
named here, so an unknown input bit could reach no other output bit. -/
def Obligations.EachOutputBitHasOneInputBit : Prop :=
  ∀ (p : Inputs) (i : Nat), i < 32 →
    (readOut .enc_id p).getLsbD i
        = (if i < 8 then p.enc_number.getLsbD i else if i < 16 then p.enc_type.getLsbD (i - 8)
           else if i < 30 then p.enc_size.getLsbD (i - 16) else p.enc_direction.getLsbD (i - 30))
    ∧ (readOut .dec_direction p).getLsbD i = (if i < 2 then p.dec_id.getLsbD (i + 30) else false)
    ∧ (readOut .dec_type p).getLsbD i = (if i < 8 then p.dec_id.getLsbD (i + 8) else false)
    ∧ (readOut .dec_number p).getLsbD i = (if i < 8 then p.dec_id.getLsbD i else false)
    ∧ (readOut .dec_size p).getLsbD i = (if i < 14 then p.dec_id.getLsbD (i + 16) else false)

/-- 41_extract.md R125 (the spec's own inference): the range of each extractor's result, on any word, so that an
output port W_OUT as narrow as the field carries the same number (00_scope.md R8). -/
def Obligations.ExtractorResultsStayInRange : Prop :=
  ∀ id : Word,
    (extractDirection id).toNat ≤ 3 ∧ (extractType id).toNat ≤ 255 ∧ (extractNumber id).toNat ≤ 255
    ∧ (extractSize id).toNat ≤ 16383
    ∧ extractDirection id &&& 0xFFFFFFFC#32 = 0 ∧ extractType id &&& 0xFFFFFF00#32 = 0
    ∧ extractNumber id &&& 0xFFFFFF00#32 = 0 ∧ extractSize id &&& 0xFFFFC000#32 = 0
    ∧ ((extractDirection id).setWidth 2).toNat = (extractDirection id).toNat
    ∧ ((extractType id).setWidth 8).toNat = (extractType id).toNat
    ∧ ((extractNumber id).setWidth 8).toNat = (extractNumber id).toNat
    ∧ ((extractSize id).setWidth 14).toNat = (extractSize id).toNat

/-- R124 (the spec's decision D6): whichever extractor the host uses on `id`, all four outputs carry their functions
of that same `id`. -/
def Obligations.AllExtractorsSeeTheSameWord : Prop :=
  ∀ (i : Instr) (id : Word) (s t : State),
    i = .decodeDirection id ∨ i = .decodeType id ∨ i = .decodeNumber id ∨ i = .decodeSize id → exec i s = .next t →
    readOut .dec_direction t.ports = (id.extractLsb' 30 2).setWidth 32
    ∧ readOut .dec_type t.ports = (id.extractLsb' 8 8).setWidth 32
    ∧ readOut .dec_number t.ports = (id.extractLsb' 0 8).setWidth 32
    ∧ readOut .dec_size t.ports = (id.extractLsb' 16 14).setWidth 32

/-- R40 with 42_codec_laws.md R143: where the host connects `enc_id` to `dec_id`, the extractors return the packer's
operands, truncated. -/
def Obligations.ConnectedPortsRoundTrip : Prop :=
  ∀ p : Inputs,
    (readOut .dec_direction (connectEncToDec p)).toNat = p.enc_direction.toNat % 4
    ∧ (readOut .dec_type (connectEncToDec p)).toNat = p.enc_type.toNat % 256
    ∧ (readOut .dec_number (connectEncToDec p)).toNat = p.enc_number.toNat % 256
    ∧ (readOut .dec_size (connectEncToDec p)).toNat = p.enc_size.toNat % 16384
    ∧ readOut .enc_id (connectEncToDec p) = readOut .enc_id p

/-- R206 (the spec's decision D16): with the extractor outputs wired back to the packer inputs, every identifier is
a fixed point. -/
def Obligations.LoopedWiresAreAFixedPoint : Prop :=
  ∀ p : Inputs,
    readOut .enc_id
      { p with
        enc_direction := readOut .dec_direction p
        enc_type := readOut .dec_type p
        enc_number := readOut .dec_number p
        enc_size := readOut .dec_size p } = p.dec_id

/-! ### The laws of the codec -/

/-- R141: the round trip of in-range operands. -/
def Obligations.RoundTripRecoversInRangeOperands : Prop :=
  ∀ d t n z : Nat, d ≤ 3 → t ≤ 255 → n ≤ 255 → z ≤ 16383 →
    (extractDirection (pack d t n z)).toNat = d ∧ (extractType (pack d t n z)).toNat = t
    ∧ (extractNumber (pack d t n z)).toNat = n ∧ (extractSize (pack d t n z)).toNat = z

/-- R142: pre-masking any of the operands changes nothing. -/
def Obligations.PremaskedOperandsPackTheSame : Prop :=
  (∀ (d t n z : Nat) (md mt mn mz : Bool),
    pack (if md then d &&& 0x3 else d) (if mt then t &&& 0xFF else t) (if mn then n &&& 0xFF else n)
      (if mz then z &&& 0x3FFF else z) = pack d t n z)
  ∧ ∀ d t z : Nat, pack d t 256 z = pack d t 0 z

/-- R143: out-of-range operands come back truncated. -/
def Obligations.RoundTripTruncatesOperands : Prop :=
  ∀ d t n z : Nat,
    (extractDirection (pack d t n z)).toNat = d &&& 0x3 ∧ d &&& 0x3 = d % 4
    ∧ (extractType (pack d t n z)).toNat = t &&& 0xFF ∧ t &&& 0xFF = t % 256
    ∧ (extractNumber (pack d t n z)).toNat = n &&& 0xFF ∧ n &&& 0xFF = n % 256
    ∧ (extractSize (pack d t n z)).toNat = z &&& 0x3FFF ∧ z &&& 0x3FFF = z % 16384

/-- R144: changing one operand changes only its own field and no other decoded value. -/
def Obligations.FieldsAreIndependent : Prop :=
  ∀ d t n z v : Nat,
    ((pack d t n z ^^^ pack v t n z) &&& ~~~0xC0000000#32 = 0
      ∧ extractType (pack v t n z) = extractType (pack d t n z)
      ∧ extractNumber (pack v t n z) = extractNumber (pack d t n z)
      ∧ extractSize (pack v t n z) = extractSize (pack d t n z))
    ∧ ((pack d t n z ^^^ pack d v n z) &&& ~~~0x0000FF00#32 = 0
      ∧ extractDirection (pack d v n z) = extractDirection (pack d t n z)
      ∧ extractNumber (pack d v n z) = extractNumber (pack d t n z)
      ∧ extractSize (pack d v n z) = extractSize (pack d t n z))
    ∧ ((pack d t n z ^^^ pack d t v z) &&& ~~~0x000000FF#32 = 0
      ∧ extractDirection (pack d t v z) = extractDirection (pack d t n z)
      ∧ extractType (pack d t v z) = extractType (pack d t n z)
      ∧ extractSize (pack d t v z) = extractSize (pack d t n z))
    ∧ ((pack d t n z ^^^ pack d t n v) &&& ~~~0x3FFF0000#32 = 0
      ∧ extractDirection (pack d t n v) = extractDirection (pack d t n z)
      ∧ extractType (pack d t n v) = extractType (pack d t n z)
      ∧ extractNumber (pack d t n v) = extractNumber (pack d t n z))

/-- R146 (the spec's own inference): packing a word's own decoded fields gives the word back. -/
def Obligations.ReencodingIsTheIdentity : Prop :=
  ∀ w : Word, pack (extractDirection w).toNat (extractType w).toNat (extractNumber w).toNat (extractSize w).toNat = w

/-- R147 (the spec's own inference): on in-range operands ENCODE is a bijection onto the words, and the extractors
are its inverse; on all operands it is onto and not one-to-one. -/
def Obligations.EncodeIsABijectionInRange : Prop :=
  (∀ d t n z d' t' n' z' : Nat, d ≤ 3 → t ≤ 255 → n ≤ 255 → z ≤ 16383 → d' ≤ 3 → t' ≤ 255 → n' ≤ 255 → z' ≤ 16383 →
    pack d t n z = pack d' t' n' z' → d = d' ∧ t = t' ∧ n = n' ∧ z = z')
  ∧ (∀ w : Word, ∃ d t n z : Nat, (d ≤ 3 ∧ t ≤ 255 ∧ n ≤ 255 ∧ z ≤ 16383) ∧ pack d t n z = w
      ∧ d = (extractDirection w).toNat ∧ t = (extractType w).toNat ∧ n = (extractNumber w).toNat
      ∧ z = (extractSize w).toNat)
  ∧ (∀ d t n z : Nat, d ≤ 3 → t ≤ 255 → n ≤ 255 → z ≤ 16383 →
      ((extractDirection (pack d t n z)).toNat, (extractType (pack d t n z)).toNat, (extractNumber (pack d t n z)).toNat,
        (extractSize (pack d t n z)).toNat) = (d, t, n, z))
  ∧ (∃ d t n z d' t' n' z' : Nat, (d, t, n, z) ≠ (d', t', n', z') ∧ pack d t n z = pack d' t' n' z')
  ∧ 4 * 256 * 256 * 16384 = 2 ^ 32

/-- R148 (the spec's own inference): OR, addition without carry and XOR of the four terms give the same word. -/
def Obligations.OrAddAndXorAgree : Prop :=
  ∀ d t n z : Nat,
    (pack d t n z).toNat = ((d &&& 0x3) <<< 30) + ((z &&& 0x3FFF) <<< 16) + ((t &&& 0xFF) <<< 8) + (n &&& 0xFF)
    ∧ (pack d t n z).toNat
        = ((d &&& 0x3) <<< 30) ^^^ ((z &&& 0x3FFF) <<< 16) ^^^ ((t &&& 0xFF) <<< 8) ^^^ (n &&& 0xFF)
    ∧ (pack d t n z).toNat
        = ((d &&& 0x3) <<< 30) ||| ((z &&& 0x3FFF) <<< 16) ||| ((t &&& 0xFF) <<< 8) ||| (n &&& 0xFF)

/-- R149 (the spec's own inference): shifting first and masking in place gives the same word; with operands wider
than 32 bits the in-place mask does the reduction. -/
def Obligations.ShiftThenMaskPacksTheSame : Prop :=
  (∀ v m o : Nat, v < 2 ^ 32 → m <<< o < 2 ^ 32 → (v &&& m) <<< o = ((v <<< o) % 2 ^ 32) &&& (m <<< o))
  ∧ (∀ v m o : Nat, (v &&& m) <<< o = (v <<< o) &&& (m <<< o))
  ∧ ∀ p : Inputs,
    readOut .enc_id p = ((p.enc_direction <<< 30) &&& 0xC0000000#32) ||| ((p.enc_size <<< 16) &&& 0x3FFF0000#32)
      ||| ((p.enc_type <<< 8) &&& 0x0000FF00#32) ||| (p.enc_number &&& 0x000000FF#32)

/-- R151 (the spec's own inference): each extractor sees only its own field. -/
def Obligations.ExtractorSeesOnlyItsField : Prop :=
  (∀ w w' : Word,
    (w &&& 0xC0000000#32 = w' &&& 0xC0000000#32 → extractDirection w = extractDirection w')
    ∧ (w &&& 0x0000FF00#32 = w' &&& 0x0000FF00#32 → extractType w = extractType w')
    ∧ (w &&& 0x000000FF#32 = w' &&& 0x000000FF#32 → extractNumber w = extractNumber w')
    ∧ (w &&& 0x3FFF0000#32 = w' &&& 0x3FFF0000#32 → extractSize w = extractSize w'))
  ∧ ∀ w : Word,
    (extractDirection w = 0 ↔ w &&& 0xC0000000#32 = 0) ∧ (extractType w = 0 ↔ w &&& 0x0000FF00#32 = 0)
    ∧ (extractNumber w = 0 ↔ w &&& 0x000000FF#32 = 0) ∧ (extractSize w = 0 ↔ w &&& 0x3FFF0000#32 = 0)
    ∧ extractDirection w = extractDirection (w &&& 0xC0000000#32) ∧ extractType w = extractType (w &&& 0x0000FF00#32)
    ∧ extractNumber w = extractNumber (w &&& 0x000000FF#32) ∧ extractSize w = extractSize (w &&& 0x3FFF0000#32)

/-- R152 (the spec's own inference): a word is the OR, and the sum, of its fields in place. -/
def Obligations.WordIsTheSumOfItsFields : Prop :=
  ∀ w : Word,
    w = (extractDirection w <<< 30) ||| (extractSize w <<< 16) ||| (extractType w <<< 8) ||| extractNumber w
    ∧ w.toNat = (extractDirection w).toNat * 2 ^ 30 + (extractSize w).toNat * 2 ^ 16 + (extractType w).toNat * 2 ^ 8
        + (extractNumber w).toNat

/-- R153 (the spec's own inference): extreme values, monotone in each in-range operand, not beyond the range, and
the order of words. -/
def Obligations.ExtremesAndOrderOfWords : Prop :=
  (pack 0 0 0 0 = 0x00000000#32 ∧ pack 3 255 255 16383 = 0xFFFFFFFF#32)
  ∧ (∀ w : Word, 0x00000000#32 ≤ w ∧ w ≤ 0xFFFFFFFF#32)
  ∧ (∀ d t n z v : Nat,
      (d < v → v ≤ 3 → pack d t n z < pack v t n z) ∧ (t < v → v ≤ 255 → pack d t n z < pack d v n z)
      ∧ (n < v → v ≤ 255 → pack d t n z < pack d t v z) ∧ (z < v → v ≤ 16383 → pack d t n z < pack d t n v))
  ∧ pack 0 0 256 0 < pack 0 0 255 0
  ∧ ∀ w w' : Word,
    (w < w' ↔ extractDirection w < extractDirection w'
      ∨ (extractDirection w = extractDirection w' ∧ (extractSize w < extractSize w'
        ∨ (extractSize w = extractSize w' ∧ (extractType w < extractType w'
          ∨ (extractType w = extractType w' ∧ extractNumber w < extractNumber w'))))))

/-- R154 (the spec's own inference): what the derived forms decode to. -/
def Obligations.DerivedFormsDecodeToTheirDirection : Prop :=
  ∀ t n z : Nat,
    extractDirection (packNone t n) = 0 ∧ extractSize (packNone t n) = 0
    ∧ extractDirection (packRead t n z) = 2 ∧ extractDirection (packWrite t n z) = 1
    ∧ extractDirection (packReadWrite t n z) = 3
    ∧ (∀ w ∈ [packNone t n, packRead t n z, packWrite t n z, packReadWrite t n z],
        (extractType w).toNat = t &&& 0xFF ∧ (extractNumber w).toNat = n &&& 0xFF)
    ∧ (∀ w ∈ [packRead t n z, packWrite t n z, packReadWrite t n z], (extractSize w).toNat = z &&& 0x3FFF)
    ∧ packReadWrite t n z = packRead t n z ||| packWrite t n z

/-- R155 (the spec's own inference): ENCODE depends only on the low bits of its operands, so no packer port width
W_IN of 14 or more changes a result (00_scope.md R8). -/
def Obligations.EncodeDependsOnLowBitsOnly : Prop :=
  (∀ d t n z d' t' n' z' : Nat, d % 2 ^ 2 = d' % 2 ^ 2 → t % 2 ^ 8 = t' % 2 ^ 8 → n % 2 ^ 8 = n' % 2 ^ 8 →
    z % 2 ^ 14 = z' % 2 ^ 14 → pack d t n z = pack d' t' n' z')
  ∧ ∀ (k d t n z : Nat), 14 ≤ k →
    pack (BitVec.ofNat k d).toNat (BitVec.ofNat k t).toNat (BitVec.ofNat k n).toNat (BitVec.ofNat k z).toNat
      = pack d t n z

/-! ### Direction, the derived forms and the operation map -/

/-- 40_pack.md R108: the direction operand is an integer like the others. -/
def Obligations.DirectionOperandIsTruncatedToTwoBits : Prop :=
  (∀ d t n z : Nat, pack d t n z = pack (d % 4) t n z)
  ∧ (∀ t n z : Nat, pack 5 t n z = pack 1 t n z ∧ pack 6 t n z = pack 2 t n z ∧ pack 7 t n z = pack 3 t n z
      ∧ pack (Config.READ ||| Config.WRITE) t n z = pack 3 t n z)
  ∧ ∀ t n z : Nat, hasRead (extractDirection (pack 3 t n z)).toNat = true ∧ hasWrite (extractDirection (pack 3 t n z)).toNat = true

/-- 41_extract.md R128: bit 0 of the direction result is WRITE and bit 1 is READ, and a word is classified by its
two top bits. -/
def Obligations.DirectionResultIsATwoBitMask : Prop :=
  ∀ w : Word,
    hasWrite (extractDirection w).toNat = w.getLsbD 30 ∧ hasRead (extractDirection w).toNat = w.getLsbD 31
    ∧ (directionName w = .none ↔ w &&& 0xC0000000#32 = 0x00000000#32)
    ∧ (directionName w = .write ↔ w &&& 0xC0000000#32 = 0x40000000#32)
    ∧ (directionName w = .read ↔ w &&& 0xC0000000#32 = 0x80000000#32)
    ∧ (directionName w = .readWrite ↔ w &&& 0xC0000000#32 = 0xC0000000#32)
    ∧ (directionName w = .none ↔ extractDirection w = 0) ∧ (directionName w = .write ↔ extractDirection w = 1)
    ∧ (directionName w = .read ↔ extractDirection w = 2) ∧ (directionName w = .readWrite ↔ extractDirection w = 3)

/-- 40_pack.md R107 (the spec's decision D9): a derived form does in every state what ENCODE does with the tied
operands. -/
def Obligations.DerivedFormsAreEncodeWithTiedOperands : Prop :=
  ∀ (t n z : Nat) (s : State),
    exec (.encodeNone t n) s = exec (.encode 0 t n 0) s ∧ exec (.encodeRead t n z) s = exec (.encode 2 t n z) s
    ∧ exec (.encodeWrite t n z) s = exec (.encode 1 t n z) s
    ∧ exec (.encodeReadWrite t n z) s = exec (.encode 3 t n z) s

/-- R109 (the spec's own inference): direction NONE with a size other than 0 is ENCODE's alone, and the forms with a
size accept size 0. -/
def Obligations.DerivedFormsDoNotCoverEveryWord : Prop :=
  (∀ d t n z : Nat, d % 4 = 0 → z % 16384 ≠ 0 → ∀ t' n' z' : Nat,
    pack d t n z ≠ packNone t' n' ∧ pack d t n z ≠ packRead t' n' z' ∧ pack d t n z ≠ packWrite t' n' z'
    ∧ pack d t n z ≠ packReadWrite t' n' z')
  ∧ (∀ (t n z : Nat) (s : State), ∃ u, exec (.encode 0 t n z) s = .next u)
  ∧ ∀ (t n : Nat) (s : State), (∃ u, exec (.encodeRead t n 0) s = .next u) ∧ (∃ u, exec (.encodeWrite t n 0) s = .next u)
      ∧ ∃ u, exec (.encodeReadWrite t n 0) s = .next u

/-- 30_encoding.md R81 (the spec's decision D23): a word is produced by a packer row's operation exactly when its
fixed bits are the row's. -/
def Obligations.RowsDescribeTheProducedWords : Prop :=
  ∀ w : Word,
    (∃ d t n z, pack d t n z = w)
    ∧ ((∃ t n, packNone t n = w) ↔ w &&& 0xFFFF0000#32 = 0x00000000#32)
    ∧ ((∃ t n z, packRead t n z = w) ↔ w &&& 0xC0000000#32 = 0x80000000#32)
    ∧ ((∃ t n z, packWrite t n z = w) ↔ w &&& 0xC0000000#32 = 0x40000000#32)
    ∧ ((∃ t n z, packReadWrite t n z = w) ↔ w &&& 0xC0000000#32 = 0xC0000000#32)

/-! ### Encoding -/

/-- Words written out from the table's patterns decode to their operations.  The decoder takes the row beside the word: a row is chosen by the unit the host uses (30_encoding.md R80),
and a row's word is an identifier, not an instruction word (R81, the spec's decision D23); that form is the model's
choice (log entry 2). -/
def Obligations.WrittenOutWordsDecode : Prop :=
  decode .encode 0b00000000000001000101011000010010#32 = .instr (.encode 0 0x56 18 4)
  ∧ decode .encodeNone 0b00000000000000000101011000000001#32 = .instr (.encodeNone 0x56 1)
  ∧ decode .encodeRead 0b10000000000010000101011000000010#32 = .instr (.encodeRead 0x56 2 8)
  ∧ decode .encodeWrite 0b01000000000100000101011000000011#32 = .instr (.encodeWrite 0x56 3 16)
  ∧ decode .encodeReadWrite 0b11111111111111110101011000000100#32 = .instr (.encodeReadWrite 0x56 4 16383)
  ∧ decode .decodeSize 0b11011110101011011011111011101111#32 = .instr (.decodeSize 0xDEADBEEF#32)
  ∧ decode .encodeRead 0b01000000000100000101011000000011#32 = .rejected (.fixedBits .encodeRead)

/-- Decoding an encoded operation gives it back, for every operation with every operand its field holds.  The decoder takes the row beside the word: a row is chosen by the unit the host uses (30_encoding.md R80),
and a row's word is an identifier, not an instruction word (R81, the spec's decision D23); that form is the model's
choice (log entry 2). -/
def Obligations.DecodeOfEncodeIsTheInstruction : Prop :=
  ∀ i : Instr, i.inRange = true → decode i.op (encode i) = .instr i

/-- The other direction: whatever a row reads from a word is an in-range operation of that row whose encoding is that word, so a
row reads no two words alike.  The decoder takes the row beside the word: a row is chosen by the unit the host uses (30_encoding.md R80),
and a row's word is an identifier, not an instruction word (R81, the spec's decision D23); that form is the model's
choice (log entry 2). -/
def Obligations.EncodeOfDecodeIsTheWord : Prop :=
  ∀ (op : Op) (w : Word) (i : Instr), decode op w = .instr i → i.op = op ∧ i.inRange = true ∧ encode i = w

/-- The encoder, a concatenation of fields, agrees with the packer's mask, shift and OR on operands of any size. -/
def Obligations.EncoderAgreesWithThePacker : Prop :=
  ∀ i : Instr, i.op.computedBy = .PACK → (resultOf i).value = encode i ∧ (resultOf i).port = .enc_id

/-- The table decoder answers every 32-bit word, by its direction (R81), and no other bit count. Which row it takes
is the model's choice (log entry 2). -/
def Obligations.TableDecoderClassifiesEveryWord : Prop :=
  (∀ w : Word, ∃ i, decodeTableWord 32 w.toNat = some i ∧ encode i = w
    ∧ i.op = (if w &&& 0xFFFF0000#32 = 0 then .encodeNone else if w &&& 0xC0000000#32 = 0x80000000#32 then .encodeRead
        else if w &&& 0xC0000000#32 = 0x40000000#32 then .encodeWrite
        else if w &&& 0xC0000000#32 = 0xC0000000#32 then .encodeReadWrite else .encode))
  ∧ ∀ nbits w : Nat, nbits ≠ 32 ∨ 2 ^ 32 ≤ w → decodeTableWord nbits w = none

/-! ### Steps, runs and the invariant -/

/-- A step does the host's next act (60_exceptions.md R187, 70_reset_and_hazards.md R209): a use is `exec`; an assignment puts
any values on all input ports at once, connects `enc_id` to `dec_id` or not, records the outputs it lists at that instant, none
where it lists none, and changes nothing else.  At the end of the list nothing is done.  The list of acts and the idle
step are the model's choice (log entries 1, 5 and 7). -/
def Obligations.StepMakesTheNextPresentation : Prop :=
  (∀ (s : State) (i : Instr) (rest : List HostAct), s.pending = .use i :: rest → step s = exec i { s with pending := rest })
  ∧ (∀ (s : State) (p : Inputs) (read : List OutPort) (rest : List HostAct),
      s.pending = .assign p .host read :: rest →
      step s = .next { s with
        inputs := p
        idSource := .host
        pending := rest
        observed := s.observed ++ read.map (fun port => ⟨port, readOut port p⟩) })
  ∧ (∀ (s : State) (p : Inputs) (read : List OutPort) (rest : List HostAct),
      s.pending = .assign p .enc_id read :: rest →
      step s = .next { s with
        inputs := p
        idSource := .enc_id
        pending := rest
        observed := s.observed ++ read.map (fun port => ⟨port, readOut port { p with dec_id := readOut .enc_id p }⟩) })
  ∧ ∀ s : State, s.pending = [] → step s = .next s

/-- A step runs the operation the decoder read from a table word placed by `withFetchWord` (log entry 6). -/
def Obligations.StepRunsTheDecodedWord : Prop :=
  ∀ (s : State) (nbits w : Nat) (i : Instr), decodeTableWord nbits w = some i → step (s.withFetchWord nbits w) = exec i s

/-- 60_exceptions.md R186 (the spec's own inference from R170): every operation returns a value in every state;
there is no fault and a step is never refused. -/
def Obligations.EveryOperationReturnsAValue : Prop :=
  (∀ (i : Instr) (s : State), ∃ (o : Observation) (t : State), exec i s = .next t ∧ t.observed = s.observed ++ [o])
  ∧ (∀ s : State, ∃ t, step s = .next t) ∧ (Fault → False)

/-- A run of any length from any state ends in a next state: no fault, no refusal (R186). -/
def Obligations.RunsNeverStop : Prop := ∀ (k : Nat) (s : State), RunsSafely k s

/-- The invariant holds at reset (the input ports' values there are the model's choice, log entry 4). -/
def Obligations.InvariantHoldsAtReset : Prop := State.reset.Inv

/-- Every step keeps the invariant: each recorded result stays in its port's range (41_extract.md R125, the spec's own
inference) and is what its port carries for some assignment of the inputs (00_scope.md R16).  The record is the model's
(log entry 1). -/
def Obligations.EveryStepKeepsTheInvariant : Prop :=
  ∀ s t : State, s.Inv → step s = .next t → t.Inv

/-- 70_reset_and_hazards.md R209 (the spec's decision D24; log entry 1): from any state, the run of the host's list ends with
the results of its acts, in order: for a use the source's function of its operands, for an assignment the listed outputs of
the assigned inputs; the block contributes nothing. -/
def Obligations.RunObservesTheFunctionsOfItsPresentations : Prop :=
  ∀ s : State, ∃ t, Host.Core.run Sys2Proof.core s.pending.length s = .next t
    ∧ t.observed = s.observed ++ s.pending.flatMap actResults ∧ t.pending = [] ∧ t.block = s.block

/-- A step trades the act it takes for that act's results, each a function of the act alone: the results recorded followed by
those still to come never change, whatever the ports held before (70_reset_and_hazards.md R209, 10_state.md R20; log
entry 1). -/
def Obligations.StepTradesActsForTheirResults : Prop :=
  ∀ s t : State, step s = .next t →
    t.observed ++ t.pending.flatMap actResults = s.observed ++ s.pending.flatMap actResults

/-- 10_state.md R20: whatever came before and whatever the ports held, a use gives the same result. -/
def Obligations.HistoryInfluencesNoResult : Prop :=
  ∀ (i : Instr) (s₁ s₂ t₁ t₂ : State), exec i s₁ = .next t₁ → exec i s₂ = .next t₂ →
    ∃ o : Observation, t₁.observed = s₁.observed ++ [o] ∧ t₂.observed = s₂.observed ++ [o]

/-- 20_memory.md R57, R58: a use of the packer and a use of an extractor may be interleaved either way: same
results, same ports. -/
def Obligations.UsesOfDifferentUnitsCommute : Prop :=
  ∀ (i j : Instr) (s a b c e : State), i.op.computedBy = .PACK → j.op.computedBy ≠ .PACK →
    exec i s = .next a → exec j a = .next b → exec j s = .next c → exec i c = .next e →
    b.inputs = e.inputs ∧ b.idSource = e.idSource ∧ b.pending = e.pending
    ∧ ∃ x y : Observation, b.observed = s.observed ++ [x, y] ∧ e.observed = s.observed ++ [y, x]

/-- R53 (the spec's decision D13): a use repeated on the same operands returns the same result and leaves the ports
as they are. -/
def Obligations.RepeatedUseIsIdempotent : Prop :=
  ∀ (i : Instr) (s t u : State), exec i s = .next t → exec i t = .next u →
    u.inputs = t.inputs ∧ u.idSource = t.idSource ∧ ∃ o : Observation, t.observed = s.observed ++ [o] ∧ u.observed = s.observed ++ [o, o]

/-- 70_reset_and_hazards.md R202 (the spec's decision D2): with the inputs driven to 0 every output is 0. That the
reset state drives them to 0 is the model's choice (log entry 4). -/
def Obligations.ZeroInputsGiveZeroOutputs : Prop :=
  (∀ port : OutPort, readOut port { enc_direction := 0, enc_type := 0, enc_number := 0, enc_size := 0, dec_id := 0 } = 0)
  ∧ (∀ port : OutPort, readOut port State.reset.ports = 0) ∧ State.reset.pending = [] ∧ State.reset.observed = []

/-- 10_state.md R35 (the spec's decision D4; log entry 3): an operand the port can carry reaches it whole. -/
def Obligations.WellFormedOperandsReachThePorts : Prop :=
  ∀ (d t n z : Nat) (s u : State), (Instr.encode d t n z).wellFormed = true → exec (.encode d t n z) s = .next u →
    u.inputs.enc_direction.toNat = d ∧ u.inputs.enc_type.toNat = t ∧ u.inputs.enc_number.toNat = n
    ∧ u.inputs.enc_size.toNat = z

/-! ### The host's liberties (60_exceptions.md R187) -/

/-- R187 with 10_state.md R40 (the spec's decision D7) and 42_codec_laws.md R143: where the host has connected `enc_id` to
`dec_id`, a read of the four extractors returns the packer's operands, truncated, in one step, and a use of the packer
reaches the extractors at once.  The list of acts is the model's (log entries 1 and 7). -/
def Obligations.ConnectedPackerFeedsTheExtractors : Prop :=
  (∀ (s : State) (p : Inputs) (rest : List HostAct),
    s.pending = .assign p .enc_id [.dec_direction, .dec_type, .dec_number, .dec_size] :: rest →
    ∃ u, step s = .next u ∧ u.pending = rest
      ∧ u.observed = s.observed ++
        [⟨.dec_direction, BitVec.ofNat 32 (p.enc_direction.toNat % 4)⟩, ⟨.dec_type, BitVec.ofNat 32 (p.enc_type.toNat % 256)⟩,
         ⟨.dec_number, BitVec.ofNat 32 (p.enc_number.toNat % 256)⟩, ⟨.dec_size, BitVec.ofNat 32 (p.enc_size.toNat % 16384)⟩])
  ∧ ∀ (d t n z : Nat) (s u : State), s.idSource = .enc_id → exec (.encode d t n z) s = .next u →
    (readOut .dec_direction u.ports).toNat = d % 4 ∧ (readOut .dec_type u.ports).toNat = t % 256
    ∧ (readOut .dec_number u.ports).toNat = n % 256 ∧ (readOut .dec_size u.ports).toNat = z % 16384

/-- R187 with 20_memory.md R57, R58 and R174: all five units used at one instant give what their separate uses give.  The
list of acts is the model's (log entries 1 and 7). -/
def Obligations.SimultaneousUsesGiveTheirSeparateResults : Prop :=
  ∀ (d t n z : Nat) (id : Word) (s : State) (rest : List HostAct),
    s.pending = .assign
      { enc_direction := BitVec.ofNat 32 d, enc_type := BitVec.ofNat 32 t, enc_number := BitVec.ofNat 32 n,
        enc_size := BitVec.ofNat 32 z, dec_id := id } .host
      [.enc_id, .dec_direction, .dec_type, .dec_number, .dec_size] :: rest →
    ∃ u, step s = .next u ∧ u.pending = rest
      ∧ u.observed = s.observed ++
        [resultOf (.encode d t n z), resultOf (.decodeDirection id), resultOf (.decodeType id), resultOf (.decodeNumber id),
         resultOf (.decodeSize id)]

/-- 70_reset_and_hazards.md R202, R205 (the spec's decisions D2, D17): what a step records is what the ports carry in the
state it ends in, however the host's inputs changed.  The record is the model's (log entry 1). -/
def Obligations.NewResultsAreOnTheirPorts : Prop :=
  ∀ s t : State, step s = .next t →
    ∃ new : List Observation, t.observed = s.observed ++ new ∧ ∀ o ∈ new, o = observe o.port t.ports
end

