-- ==== Sys2Proof/Laws/Config.lean ====
section
/-! SUPPORT. The values of the exported constants, one lemma each, so that no proof unfolds a formula. -/

namespace Sys2Proof.Config

@[simp] theorem W_IN_eq : W_IN = 32 := rfl
@[simp] theorem W_OUT_eq : W_OUT = 32 := rfl
@[simp] theorem ID_WIDTH_eq : ID_WIDTH = 32 := rfl
@[simp] theorem NUMBER_OFFSET_eq : NUMBER_OFFSET = 0 := rfl
@[simp] theorem TYPE_OFFSET_eq : TYPE_OFFSET = 8 := rfl
@[simp] theorem SIZE_OFFSET_eq : SIZE_OFFSET = 16 := rfl
@[simp] theorem DIRECTION_OFFSET_eq : DIRECTION_OFFSET = 30 := rfl
@[simp] theorem NUMBER_MASK_eq : NUMBER_MASK = 255 := rfl
@[simp] theorem TYPE_MASK_eq : TYPE_MASK = 255 := rfl
@[simp] theorem SIZE_MASK_eq : SIZE_MASK = 16383 := rfl
@[simp] theorem DIRECTION_MASK_eq : DIRECTION_MASK = 3 := rfl
@[simp] theorem NONE_eq : NONE = 0 := rfl
@[simp] theorem WRITE_eq : WRITE = 1 := rfl
@[simp] theorem READ_eq : READ = 2 := rfl

end Sys2Proof.Config
end

