-- ==== Sys2Proof/Laws/Decode.lean ====
section
/-! SUPPORT. The identifier's fields and the assembled word, as arithmetic, and when a row reads a word. -/

namespace Sys2Proof

theorem fieldNumber_toNat (w : Word) : (fieldNumber w).toNat = w.toNat % 2 ^ 8 := by
  simp [fieldNumber, BitVec.extractLsb'_toNat]

theorem fieldType_toNat (w : Word) : (fieldType w).toNat = w.toNat / 2 ^ 8 % 2 ^ 8 := by
  simp [fieldType, BitVec.extractLsb'_toNat, Nat.shiftRight_eq_div_pow]

theorem fieldSize_toNat (w : Word) : (fieldSize w).toNat = w.toNat / 2 ^ 16 % 2 ^ 14 := by
  simp [fieldSize, BitVec.extractLsb'_toNat, Nat.shiftRight_eq_div_pow]

theorem fieldDirection_toNat (w : Word) : (fieldDirection w).toNat = w.toNat / 2 ^ 30 % 2 ^ 2 := by
  simp [fieldDirection, BitVec.extractLsb'_toNat, Nat.shiftRight_eq_div_pow]

/-- The assembled word as the sum of its fields in place (42_codec_laws.md R152). -/
theorem assemble_toNat (d : BitVec 2) (s : BitVec 14) (t n : BitVec 8) :
    (assemble d s t n).toNat = n.toNat + t.toNat * 2 ^ 8 + s.toNat * 2 ^ 16 + d.toNat * 2 ^ 30 := by
  have step : ∀ (a b k : Nat), b < 2 ^ k → a <<< k ||| b = b + a * 2 ^ k := fun a b k h => by
    rw [Nat.shiftLeft_eq, Nat.mul_comm, ← Nat.two_pow_add_eq_or_of_lt h, Nat.add_comm]
  unfold assemble
  rw [BitVec.toNat_append, step _ _ 8 n.isLt, BitVec.toNat_append, step _ _ 8 t.isLt, BitVec.toNat_append,
    step _ _ 14 s.isLt]
  omega

/-- The fields of an assembled word are the fields it was assembled from. -/
theorem fieldNumber_assemble (d : BitVec 2) (s : BitVec 14) (t n : BitVec 8) : fieldNumber (assemble d s t n) = n := by
  apply BitVec.eq_of_toNat_eq
  rw [fieldNumber_toNat, assemble_toNat]
  have := n.isLt
  omega

theorem fieldType_assemble (d : BitVec 2) (s : BitVec 14) (t n : BitVec 8) : fieldType (assemble d s t n) = t := by
  apply BitVec.eq_of_toNat_eq
  rw [fieldType_toNat, assemble_toNat]
  have := n.isLt
  have := t.isLt
  omega

theorem fieldSize_assemble (d : BitVec 2) (s : BitVec 14) (t n : BitVec 8) : fieldSize (assemble d s t n) = s := by
  apply BitVec.eq_of_toNat_eq
  rw [fieldSize_toNat, assemble_toNat]
  have := n.isLt
  have := t.isLt
  have := s.isLt
  omega

theorem fieldDirection_assemble (d : BitVec 2) (s : BitVec 14) (t n : BitVec 8) :
    fieldDirection (assemble d s t n) = d := by
  apply BitVec.eq_of_toNat_eq
  rw [fieldDirection_toNat, assemble_toNat]
  have := n.isLt
  have := t.isLt
  have := s.isLt
  have := d.isLt
  omega

/-- A row reads a word exactly when the word shows the row's fixed bits. -/
theorem decode_eq_instr {op : Op} {w : Word} {i : Instr} :
    decode op w = .instr i ↔ op.accepts w = true ∧ operandsOf op w = i := by
  unfold decode
  split <;> simp_all

end Sys2Proof
end

