-- ==== Sys2Proof/Laws/Operands.lean ====
section
/-! SUPPORT. What operand assembly and field extraction compute, as arithmetic: a mask of `k` ones keeps a value modulo
`2 ^ k`, and a shift multiplies or divides (00_scope.md R11). -/

namespace Sys2Proof.Machine

theorem placeField_arith (v k offset : Nat) : placeField v (2 ^ k - 1) offset = v % 2 ^ k * 2 ^ offset := by
  simp [placeField, Nat.and_two_pow_sub_one_eq_mod, Nat.shiftLeft_eq]

/-- A field starting at `offset` fits below the end of its bits, so no bit is shifted out (42_codec_laws.md R140). -/
theorem placeField_lt (v k offset : Nat) : placeField v (2 ^ k - 1) offset < 2 ^ (k + offset) := by
  rw [placeField_arith, Nat.pow_add]
  exact Nat.mul_lt_mul_of_pos_right (Nat.mod_lt _ (Nat.two_pow_pos k)) (Nat.two_pow_pos offset)

theorem takeField_toNat (id : Word) (offset k : Nat) (hk : k ≤ 32) :
    (takeField id offset (2 ^ k - 1)).toNat = id.toNat / 2 ^ offset % 2 ^ k := by
  have hlt : 2 ^ k - 1 < 2 ^ 32 :=
    Nat.lt_of_lt_of_le (Nat.sub_lt (Nat.two_pow_pos k) Nat.one_pos) (Nat.pow_le_pow_right (by decide) hk)
  rw [takeField, BitVec.toNat_and, BitVec.toNat_ofNat, Nat.mod_eq_of_lt hlt, BitVec.toNat_ushiftRight,
    Nat.and_two_pow_sub_one_eq_mod, Nat.shiftRight_eq_div_pow]

/-- Masking a word in place keeps one field where it stands (10_state.md R29). -/
theorem inPlace_toNat (w : Word) (offset k : Nat) (hk : k + offset ≤ 32) :
    (w &&& BitVec.ofNat 32 ((2 ^ k - 1) <<< offset)).toNat = w.toNat / 2 ^ offset % 2 ^ k * 2 ^ offset := by
  have hlt : (2 ^ k - 1) <<< offset < 2 ^ 32 := by
    rw [Nat.shiftLeft_eq]
    calc (2 ^ k - 1) * 2 ^ offset < 2 ^ k * 2 ^ offset :=
          Nat.mul_lt_mul_of_pos_right (Nat.sub_lt (Nat.two_pow_pos k) Nat.one_pos) (Nat.two_pow_pos offset)
      _ = 2 ^ (k + offset) := (Nat.pow_add 2 k offset).symm
      _ ≤ 2 ^ 32 := Nat.pow_le_pow_right (by decide) hk
  rw [BitVec.toNat_and, BitVec.toNat_ofNat, Nat.mod_eq_of_lt hlt, ← Nat.shiftRight_eq_div_pow,
    ← Nat.and_two_pow_sub_one_eq_mod, ← Nat.shiftLeft_eq, Nat.shiftLeft_and_distrib]
  apply Nat.eq_of_testBit_eq
  intro i
  simp only [Nat.testBit_and, Nat.testBit_shiftLeft, Nat.testBit_shiftRight]
  by_cases h : offset ≤ i
  · simp [h]
  · simp [h]

end Sys2Proof.Machine
end

