-- ==== Sys2Proof/Laws/State.lean ====
section
/-! SUPPORT. One lemma per field per update of the state, true by rfl. -/

namespace Sys2Proof.Machine

@[simp] theorem holdInputs_block (p : Inputs) (src : IdSource) (s : State) : (holdInputs p src s).block = s.block := rfl
@[simp] theorem holdInputs_inputs (p : Inputs) (src : IdSource) (s : State) : (holdInputs p src s).inputs = p := rfl
@[simp] theorem holdInputs_idSource (p : Inputs) (src : IdSource) (s : State) : (holdInputs p src s).idSource = src := rfl
@[simp] theorem holdInputs_pending (p : Inputs) (src : IdSource) (s : State) :
    (holdInputs p src s).pending = s.pending := rfl
@[simp] theorem holdInputs_observed (p : Inputs) (src : IdSource) (s : State) :
    (holdInputs p src s).observed = s.observed := rfl
@[simp] theorem holdInputs_ports (p : Inputs) (src : IdSource) (s : State) :
    (holdInputs p src s).ports = carried src p := rfl

@[simp] theorem readPorts_block (l : List OutPort) (s : State) : (readPorts l s).block = s.block := rfl
@[simp] theorem readPorts_inputs (l : List OutPort) (s : State) : (readPorts l s).inputs = s.inputs := rfl
@[simp] theorem readPorts_idSource (l : List OutPort) (s : State) : (readPorts l s).idSource = s.idSource := rfl
@[simp] theorem readPorts_pending (l : List OutPort) (s : State) : (readPorts l s).pending = s.pending := rfl
@[simp] theorem readPorts_observed (l : List OutPort) (s : State) :
    (readPorts l s).observed = s.observed ++ l.map (fun port => observe port s.ports) := rfl
@[simp] theorem readPorts_ports (l : List OutPort) (s : State) : (readPorts l s).ports = s.ports := rfl

@[simp] theorem carried_host (p : Inputs) : carried .host p = p := rfl
@[simp] theorem carried_enc_id (p : Inputs) : carried .enc_id p = connectEncToDec p := rfl

@[simp] theorem drivePacker_enc_direction (d t n z : Nat) (p : Inputs) :
    (drivePacker d t n z p).enc_direction = BitVec.ofNat 32 d := rfl
@[simp] theorem drivePacker_enc_type (d t n z : Nat) (p : Inputs) :
    (drivePacker d t n z p).enc_type = BitVec.ofNat 32 t := rfl
@[simp] theorem drivePacker_enc_number (d t n z : Nat) (p : Inputs) :
    (drivePacker d t n z p).enc_number = BitVec.ofNat 32 n := rfl
@[simp] theorem drivePacker_enc_size (d t n z : Nat) (p : Inputs) :
    (drivePacker d t n z p).enc_size = BitVec.ofNat 32 z := rfl
@[simp] theorem drivePacker_dec_id (d t n z : Nat) (p : Inputs) : (drivePacker d t n z p).dec_id = p.dec_id := rfl

@[simp] theorem driveIdentifier_enc_direction (id : Word) (p : Inputs) :
    (driveIdentifier id p).enc_direction = p.enc_direction := rfl
@[simp] theorem driveIdentifier_enc_type (id : Word) (p : Inputs) : (driveIdentifier id p).enc_type = p.enc_type := rfl
@[simp] theorem driveIdentifier_enc_number (id : Word) (p : Inputs) :
    (driveIdentifier id p).enc_number = p.enc_number := rfl
@[simp] theorem driveIdentifier_enc_size (id : Word) (p : Inputs) : (driveIdentifier id p).enc_size = p.enc_size := rfl
@[simp] theorem driveIdentifier_dec_id (id : Word) (p : Inputs) : (driveIdentifier id p).dec_id = id := rfl

@[simp] theorem observe_port (port : OutPort) (p : Inputs) : (observe port p).port = port := rfl
@[simp] theorem observe_value (port : OutPort) (p : Inputs) : (observe port p).value = readOut port p := rfl

@[simp] theorem presentNext_pending (i : Instr) (s : State) : (presentNext i s).pending = .use i :: s.pending := rfl
@[simp] theorem presentNext_block (i : Instr) (s : State) : (presentNext i s).block = s.block := rfl
@[simp] theorem presentNext_inputs (i : Instr) (s : State) : (presentNext i s).inputs = s.inputs := rfl
@[simp] theorem presentNext_idSource (i : Instr) (s : State) : (presentNext i s).idSource = s.idSource := rfl
@[simp] theorem presentNext_observed (i : Instr) (s : State) : (presentNext i s).observed = s.observed := rfl

end Sys2Proof.Machine
end

