-- ==== Sys2Proof/Laws/Ops.lean ====
section
/-! SUPPORT. One lemma per shared operation, saying once what it can do. -/

namespace Sys2Proof.Machine

/-- OR of a value below `2 ^ k` and a multiple of `2 ^ k` is their sum. -/
theorem or_eq_add_of_lt {a k : Nat} (b : Nat) (h : a < 2 ^ k) : a ||| b * 2 ^ k = a + b * 2 ^ k := by
  rw [Nat.or_comm, Nat.add_comm, Nat.mul_comm]
  exact (Nat.two_pow_add_eq_or_of_lt h b).symm

/-- The packer, as arithmetic on operands of any size. -/
theorem pack_toNat (d t n z : Nat) :
    (pack d t n z).toNat = n % 256 + t % 256 * 2 ^ 8 + z % 16384 * 2 ^ 16 + d % 4 * 2 ^ 30 := by
  have hn : n % 256 < 2 ^ 8 := Nat.mod_lt _ (by decide)
  have ht : n % 256 + t % 256 * 2 ^ 8 < 2 ^ 16 := by omega
  have hz : n % 256 + t % 256 * 2 ^ 8 + z % 16384 * 2 ^ 16 < 2 ^ 30 := by omega
  have key : placeField d 3 30 ||| placeField t 255 8 ||| placeField n 255 0 ||| placeField z 16383 16
      = n % 256 + t % 256 * 2 ^ 8 + z % 16384 * 2 ^ 16 + d % 4 * 2 ^ 30 := by
    have e1 : placeField d 3 30 = d % 4 * 2 ^ 30 := placeField_arith d 2 30
    have e2 : placeField t 255 8 = t % 256 * 2 ^ 8 := placeField_arith t 8 8
    have e3 : placeField n 255 0 = n % 256 := (placeField_arith n 8 0).trans (Nat.mul_one _)
    have e4 : placeField z 16383 16 = z % 16384 * 2 ^ 16 := placeField_arith z 14 16
    rw [e1, e2, e3, e4, ← or_eq_add_of_lt _ hz, ← or_eq_add_of_lt _ ht, ← or_eq_add_of_lt _ hn]
    ac_rfl
  simp only [pack, Config.DIRECTION_MASK_eq, Config.DIRECTION_OFFSET_eq, Config.TYPE_MASK_eq, Config.TYPE_OFFSET_eq,
    Config.NUMBER_MASK_eq, Config.NUMBER_OFFSET_eq, Config.SIZE_MASK_eq, Config.SIZE_OFFSET_eq, key, BitVec.toNat_ofNat]
  omega

theorem extractDirection_toNat (id : Word) : (extractDirection id).toNat = id.toNat / 2 ^ 30 % 4 :=
  takeField_toNat id 30 2 (by decide)

theorem extractType_toNat (id : Word) : (extractType id).toNat = id.toNat / 2 ^ 8 % 256 :=
  takeField_toNat id 8 8 (by decide)

theorem extractNumber_toNat (id : Word) : (extractNumber id).toNat = id.toNat % 256 :=
  (takeField_toNat id 0 8 (by decide)).trans (by simp)

theorem extractSize_toNat (id : Word) : (extractSize id).toNat = id.toNat / 2 ^ 16 % 16384 :=
  takeField_toNat id 16 14 (by decide)

/-- Through ports of W_IN = 32 bits the packer gives what it gives on operands of any size. -/
theorem readOut_drivePacker (d t n z : Nat) (p : Inputs) : readOut .enc_id (drivePacker d t n z p) = pack d t n z := by
  apply BitVec.eq_of_toNat_eq
  simp only [readOut, pack_toNat, drivePacker, BitVec.toNat_ofNat]
  omega

/-- The packer's output does not depend on where `dec_id` is fed from (10_state.md R40). -/
theorem readOut_enc_id_carried (src : IdSource) (p : Inputs) : readOut .enc_id (carried src p) = readOut .enc_id p := by
  cases src <;> rfl

/-- A use of the packer: the ports are driven, the packed word is recorded, the rest stands. -/
theorem usePacker_spec (d t n z : Nat) (s : State) :
    (usePacker d t n z s).inputs = drivePacker d t n z s.inputs
      ∧ (usePacker d t n z s).idSource = s.idSource
      ∧ (usePacker d t n z s).observed = s.observed ++ [⟨.enc_id, pack d t n z⟩]
      ∧ (usePacker d t n z s).pending = s.pending ∧ (usePacker d t n z s).block = s.block := by
  simp [usePacker, observe, readOut_enc_id_carried, readOut_drivePacker]

/-- A use of an extractor: the identifier port is driven by the host, the port's value is recorded, the rest stands. -/
theorem useExtractor_spec (port : OutPort) (id : Word) (s : State) :
    (useExtractor port id s).inputs = driveIdentifier id s.inputs
      ∧ (useExtractor port id s).idSource = .host
      ∧ (useExtractor port id s).observed = s.observed ++ [⟨port, readOut port (driveIdentifier id s.inputs)⟩]
      ∧ (useExtractor port id s).pending = s.pending ∧ (useExtractor port id s).block = s.block :=
  ⟨rfl, rfl, rfl, rfl, rfl⟩

/-- An assignment: the inputs and the feed of `dec_id` are the host's, the listed outputs are recorded, the rest stands. -/
theorem hostAssign_spec (p : Inputs) (src : IdSource) (read : List OutPort) (s : State) :
    (hostAssign p src read s).inputs = p ∧ (hostAssign p src read s).idSource = src
      ∧ (hostAssign p src read s).observed = s.observed ++ read.map (fun port => observe port (carried src p))
      ∧ (hostAssign p src read s).pending = s.pending ∧ (hostAssign p src read s).block = s.block :=
  ⟨rfl, rfl, rfl, rfl, rfl⟩

/-- What `fetch` answers: the head of the host's list, and nothing else of the state changed. -/
theorem fetch_eq_some {s s' : State} {a : HostAct} (h : fetch s = some (a, s')) :
    ∃ rest, s.pending = a :: rest ∧ s' = { s with pending := rest } := by
  unfold fetch at h
  split at h
  · cases h
  · next j rest hp => cases h; exact ⟨rest, hp, rfl⟩

theorem fetch_eq_none {s : State} : fetch s = none ↔ s.pending = [] := by
  unfold fetch
  split <;> simp_all

end Sys2Proof.Machine
end

