-- ==== Sys2Proof/Laws/Dispatch.lean ====
section
/-! SUPPORT. What `exec` can do: every arm is one use, of the packer or of one extractor. -/

namespace Sys2Proof.Machine

/-- Every operation is, in every state, a use of the packer on some operands, or of one extractor on a word. -/
theorem exec_cases (i : Instr) :
    (∃ d t n z, i.op.computedBy = .PACK ∧ ∀ s, exec i s = .next (usePacker d t n z s)) ∨
    (∃ port id, i.op.computedBy ≠ .PACK ∧ port ≠ OutPort.enc_id ∧ ∀ s, exec i s = .next (useExtractor port id s)) := by
  cases i with
  | encode d t n z => exact .inl ⟨d, t, n, z, rfl, fun _ => rfl⟩
  | encodeNone t n => exact .inl ⟨_, t, n, 0, rfl, fun _ => rfl⟩
  | encodeRead t n z => exact .inl ⟨_, t, n, z, rfl, fun _ => rfl⟩
  | encodeWrite t n z => exact .inl ⟨_, t, n, z, rfl, fun _ => rfl⟩
  | encodeReadWrite t n z => exact .inl ⟨_, t, n, z, rfl, fun _ => rfl⟩
  | decodeDirection id => exact .inr ⟨.dec_direction, id, nofun, nofun, fun _ => rfl⟩
  | decodeType id => exact .inr ⟨.dec_type, id, nofun, nofun, fun _ => rfl⟩
  | decodeNumber id => exact .inr ⟨.dec_number, id, nofun, nofun, fun _ => rfl⟩
  | decodeSize id => exact .inr ⟨.dec_size, id, nofun, nofun, fun _ => rfl⟩

end Sys2Proof.Machine
end

