-- ==== Sys2Proof/Laws/PerInstr.lean ====
section
/-! SUPPORT. The per-instruction family RowMatch: an operation's encoded word shows its row's fixed bits
(30_encoding.md R81). -/

namespace Sys2Proof.Laws.RowMatch

/-- The encoder's word has the bits its row's mask selects at the row's pattern. -/
def Statement (i : Instr) : Prop := i.op.accepts (encode i) = true

/-- A row with no fixed bits accepts every word. -/
theorem accepts_of_mask_zero {op : Op} (hm : op.mask = 0#32) (hp : op.pattern = 0#32) (w : Word) : op.accepts w = true := by
  simp [Op.accepts, hm, hp]

/-- The two top bits of an assembled word are its direction. -/
theorem assemble_direction (d : BitVec 2) (s : BitVec 14) (t n : BitVec 8) :
    assemble d s t n &&& 0xC0000000#32 = d ++ 0#30 := by
  apply BitVec.eq_of_getLsbD_eq
  intro i hi
  have hm : (0xC0000000#32).getLsbD i = decide (30 ≤ i) := by
    interval_cases i <;> rfl
  simp only [assemble, BitVec.getLsbD_and, BitVec.getLsbD_append, hm, BitVec.getLsbD_zero]
  by_cases h : 30 ≤ i
  · simp [h, show ¬ i < 8 by omega, show ¬ i - 8 < 8 by omega, show ¬ i - 8 - 8 < 14 by omega, show ¬ i < 30 by omega,
      show i - 8 - 8 - 14 = i - 30 by omega]
  · simp [h, show i < 30 by omega]

theorem encode (d t n z : Nat) : Statement (.encode d t n z) := accepts_of_mask_zero rfl rfl _

theorem encodeNone (t n : Nat) : Statement (.encodeNone t n) := by
  simp only [Statement, Op.accepts, Instr.op, Op.mask, Op.pattern, Sys2Proof.encode, assemble, beq_iff_eq]
  apply BitVec.eq_of_getLsbD_eq
  intro i hi
  have hm : (0xFFFF0000#32).getLsbD i = decide (16 ≤ i) := by
    interval_cases i <;> rfl
  simp only [BitVec.getLsbD_and, BitVec.getLsbD_append, hm, BitVec.getLsbD_zero]
  by_cases h : 16 ≤ i
  · simp [h, show ¬ i < 8 by omega, show ¬ i - 8 < 8 by omega]
  · simp [h]

theorem encodeRead (t n z : Nat) : Statement (.encodeRead t n z) := by
  simp [Statement, Op.accepts, Instr.op, Op.mask, Op.pattern, Sys2Proof.encode, assemble_direction]

theorem encodeWrite (t n z : Nat) : Statement (.encodeWrite t n z) := by
  simp [Statement, Op.accepts, Instr.op, Op.mask, Op.pattern, Sys2Proof.encode, assemble_direction]

theorem encodeReadWrite (t n z : Nat) : Statement (.encodeReadWrite t n z) := by
  simp [Statement, Op.accepts, Instr.op, Op.mask, Op.pattern, Sys2Proof.encode, assemble_direction]

theorem decodeDirection (id : Word) : Statement (.decodeDirection id) := accepts_of_mask_zero rfl rfl _

theorem decodeType (id : Word) : Statement (.decodeType id) := accepts_of_mask_zero rfl rfl _

theorem decodeNumber (id : Word) : Statement (.decodeNumber id) := accepts_of_mask_zero rfl rfl _

theorem decodeSize (id : Word) : Statement (.decodeSize id) := accepts_of_mask_zero rfl rfl _

end Sys2Proof.Laws.RowMatch
end

