-- ==== Sys2Proof/Laws/Step.lean ====
section
/-! SUPPORT. What a step can do: nothing at the end of the host's list, else one use or one assignment. -/

namespace Sys2Proof.Machine

theorem step_cases {s t : State} (h : step s = .next t) :
    (s.pending = [] ∧ t = s) ∨
    (∃ i rest, s.pending = .use i :: rest ∧ exec i { s with pending := rest } = .next t) ∨
    (∃ p src read rest, s.pending = .assign p src read :: rest ∧ t = hostAssign p src read { s with pending := rest }) := by
  unfold step at h
  split at h
  · next hf => cases h; exact .inl ⟨fetch_eq_none.1 hf, rfl⟩
  · next i s' hf =>
    obtain ⟨rest, hp, rfl⟩ := fetch_eq_some hf
    exact .inr (.inl ⟨i, rest, hp, h⟩)
  · next p src read s' hf =>
    obtain ⟨rest, hp, rfl⟩ := fetch_eq_some hf
    cases h
    exact .inr (.inr ⟨p, src, read, rest, hp, rfl⟩)

end Sys2Proof.Machine
end

