-- ==== Sys2Proof/Laws/WellFormed.lean ====
section
/-! SUPPORT. What the operand checks say, as inequalities. -/

namespace Sys2Proof

@[simp] theorem fitsPort_iff {v : Nat} : fitsPort v = true ↔ v < 2 ^ 32 := decide_eq_true_iff

@[simp] theorem inField_iff {v mask : Nat} : inField v mask = true ↔ v ≤ mask := decide_eq_true_iff

end Sys2Proof
end

