-- ==== Sys2Proof/Tests/Slice0.lean ====
section
/-! SUPPORT. The model's own tests.  Expected values are the spec's: the source's scenarios S1 to S6 and the derived
vectors E, T, F, X and FV of 95_test_vectors.md, which that file computes from the rules.  Vector names stand in the
theorems' names. -/

namespace Sys2Proof.Tests

open Sys2Proof Sys2Proof.Machine

/-! ### The operand checks refuse what they should -/

theorem test_wellFormed_refuses_wide_direction : (Instr.encode 0x100000000 0 0 0).wellFormed = false := by decide
theorem test_wellFormed_refuses_wide_type : (Instr.encode 0 0x100000000 0 0).wellFormed = false := by decide
theorem test_wellFormed_refuses_wide_number : (Instr.encodeNone 0 0x100000000).wellFormed = false := by decide
theorem test_wellFormed_refuses_wide_size : (Instr.encodeRead 0 0 0x100000000).wellFormed = false := by decide
theorem test_wellFormed_refuses_wide_write : (Instr.encodeWrite 0x100000000 0 0).wellFormed = false := by decide
theorem test_wellFormed_refuses_wide_readWrite : (Instr.encodeReadWrite 0 0x100000000 0).wellFormed = false := by decide
theorem test_wellFormed_accepts_widest :
    (Instr.encode 0xFFFFFFFF 0xFFFFFFFF 0xFFFFFFFF 0xFFFFFFFF).wellFormed = true := by decide

theorem test_inRange_refuses_direction_4 : (Instr.encode 4 0 0 0).inRange = false := by decide
theorem test_inRange_refuses_type_256 : (Instr.encodeNone 256 0).inRange = false := by decide
theorem test_inRange_refuses_number_256 : (Instr.encodeWrite 0 256 0).inRange = false := by decide
theorem test_inRange_refuses_size_16384 : (Instr.encodeReadWrite 0 0 16384).inRange = false := by decide
theorem test_inRange_refuses_read_size : (Instr.encodeRead 0 0 16384).inRange = false := by decide
theorem test_inRange_accepts_largest : (Instr.encode 3 255 255 16383).inRange = true := by decide

/-! ### Each row reads a word written out bit by bit from its pattern (30_encoding.md R81) -/

theorem test_decode_encode :
    decode .encode 0b01000000000001000101011000010010#32 = .instr (.encode 1 0x56 18 4) := by decide
theorem test_decode_encodeNone :
    decode .encodeNone 0b00000000000000000101011000000001#32 = .instr (.encodeNone 0x56 1) := by decide
theorem test_decode_encodeRead :
    decode .encodeRead 0b10000000000010000101011000000010#32 = .instr (.encodeRead 0x56 2 8) := by decide
theorem test_decode_encodeWrite :
    decode .encodeWrite 0b01000000000100000101011000000011#32 = .instr (.encodeWrite 0x56 3 16) := by decide
theorem test_decode_encodeReadWrite :
    decode .encodeReadWrite 0b11111111111111110101011000000100#32 = .instr (.encodeReadWrite 0x56 4 16383) := by decide
theorem test_decode_decodeDirection :
    decode .decodeDirection 0b11000000000000010000000100000001#32 = .instr (.decodeDirection 0xC0010101#32) := by decide
theorem test_decode_decodeType :
    decode .decodeType 0b00000000000000000101011000000001#32 = .instr (.decodeType 0x00005601#32) := by decide
theorem test_decode_decodeNumber :
    decode .decodeNumber 0b00000000000000000101011001000110#32 = .instr (.decodeNumber 0x00005646#32) := by decide
theorem test_decode_decodeSize :
    decode .decodeSize 0b11000000000001000000000000000000#32 = .instr (.decodeSize 0xC0040000#32) := by decide

theorem test_decode_rejects_other_direction :
    decode .encodeRead 0x40045612#32 = .rejected (.fixedBits .encodeRead) := by decide
theorem test_decode_rejects_none_with_size :
    decode .encodeNone 0x00045612#32 = .rejected (.fixedBits .encodeNone) := by decide
theorem test_decodeBits_rejects_other_width : decodeBits 16 0x5601 = .rejected (.width 16) := by decide

theorem test_table_none : decodeTableWord 32 0x00005601 = some (.encodeNone 0x56 1) := by decide
theorem test_table_none_with_size : decodeTableWord 32 0x00045612 = some (.encode 0 0x56 18 4) := by decide
theorem test_table_read : decodeTableWord 32 0x80000000 = some (.encodeRead 0 0 0) := by decide
theorem test_table_write : decodeTableWord 32 0x40105603 = some (.encodeWrite 0x56 3 16) := by decide
theorem test_table_readWrite : decodeTableWord 32 0xFFFFFFFF = some (.encodeReadWrite 255 255 16383) := by decide

theorem test_encode_encode : encode (.encode 2 0xAB 0xCD 0x1234) = 0x9234ABCD#32 := by decide
theorem test_encode_readWrite : encode (.encodeReadWrite 1 1 1) = 0xC0010101#32 := by decide

/-! ### One use -/

/-- A state whose ports hold other values and whose host has made one use. -/
def busy : State :=
  { State.reset with
    inputs := { enc_direction := 1, enc_type := 2, enc_number := 3, enc_size := 4, dec_id := 0xDEADBEEF#32 }
    observed := [{ port := .dec_size, value := 0x1EAD#32 }] }

/-- `busy` with one act to come: connect `enc_id` to `dec_id` and read the four extractors at once. -/
def connected : State :=
  { busy with pending := [.assign busy.inputs .enc_id [.dec_direction, .dec_type, .dec_number, .dec_size]] }

/-- The results of an outcome, if it is a next state. -/
def results (o : Host.Outcome State Fault Refusal) : List Observation :=
  match o with
  | .next s => s.observed
  | .fault _ => []
  | .refused _ => []

/-- The latest result of an outcome, if it is a next state. -/
def latest (o : Host.Outcome State Fault Refusal) : Option Observation :=
  match o with
  | .next s => s.observed.getLast?
  | .fault _ => none
  | .refused _ => none

theorem test_S1_encode : latest (exec (.encode 0 0x56 1 0) busy) = some ⟨.enc_id, 0x00005601#32⟩ := by decide
theorem test_T13_encode :
    latest (exec (.encode 0x80000002 0x10056 0xFFFFFF12 0x10004) busy) = some ⟨.enc_id, 0x80045612#32⟩ := by decide
theorem test_F1_encodeNone : latest (exec (.encodeNone 0x56 1) busy) = some ⟨.enc_id, 0x00005601#32⟩ := by decide
theorem test_F4_encodeNone : latest (exec (.encodeNone 0x156 0x101) busy) = some ⟨.enc_id, 0x00005601#32⟩ := by decide
theorem test_F7_encodeRead : latest (exec (.encodeRead 0x41 7 16383) busy) = some ⟨.enc_id, 0xBFFF4107#32⟩ := by decide
theorem test_F18_encodeRead : latest (exec (.encodeRead 0x56 18 16384) busy) = some ⟨.enc_id, 0x80005612#32⟩ := by decide
theorem test_F9_encodeWrite : latest (exec (.encodeWrite 0x56 18 4) busy) = some ⟨.enc_id, 1074026002#32⟩ := by decide
theorem test_F11_encodeWrite : latest (exec (.encodeWrite 0x41 7 16383) busy) = some ⟨.enc_id, 0x7FFF4107#32⟩ := by decide
theorem test_F14_encodeReadWrite : latest (exec (.encodeReadWrite 1 1 1) busy) = some ⟨.enc_id, 0xC0010101#32⟩ := by decide
theorem test_F17_encodeReadWrite :
    latest (exec (.encodeReadWrite 0x56 4 16383) busy) = some ⟨.enc_id, 0xFFFF5604#32⟩ := by decide
theorem test_S5_decodeDirection : latest (exec (.decodeDirection 0xC0010101#32) busy) = some ⟨.dec_direction, 3#32⟩ := by decide
theorem test_FV5_decodeDirection : latest (exec (.decodeDirection 0x80000000#32) busy) = some ⟨.dec_direction, 2#32⟩ := by decide
theorem test_S3_decodeType : latest (exec (.decodeType 0x00005601#32) busy) = some ⟨.dec_type, 0x56#32⟩ := by decide
theorem test_X20_decodeType : latest (exec (.decodeType 0xFFFF00FF#32) busy) = some ⟨.dec_type, 0#32⟩ := by decide
theorem test_S4_decodeNumber : latest (exec (.decodeNumber 0x00005646#32) busy) = some ⟨.dec_number, 70#32⟩ := by decide
theorem test_X21_decodeNumber : latest (exec (.decodeNumber 0xFFFFFF00#32) busy) = some ⟨.dec_number, 0#32⟩ := by decide
theorem test_X7_decodeSize : latest (exec (.decodeSize 0xDEADBEEF#32) busy) = some ⟨.dec_size, 7853#32⟩ := by decide
theorem test_FV6_decodeSize : latest (exec (.decodeSize 0xC0040000#32) busy) = some ⟨.dec_size, 4#32⟩ := by decide

/-! ### The source's functions on the spec's vectors -/

theorem test_S2_pack : pack 1 0x56 18 4 = 1074026002#32 := by decide
theorem test_E13_pack : pack 2 0x80 0x7F 0x2000 = 0xA000807F#32 := by decide
theorem test_E14_pack : pack 2 0xAB 0xCD 0x1234 = 0x9234ABCD#32 := by decide
theorem test_E15_pack : pack 1 0x12 0x34 0x2ABC = 1790710324#32 := by decide
theorem test_E16_pack : pack 3 0xAA 0x55 0x2AAA = 0xEAAAAA55#32 := by decide
theorem test_T11_pack : pack 5 0x1FF 0x1FE 0x7FFF = 0x7FFFFFFE#32 := by decide
theorem test_T15_pack : pack 0xFFFFFFFC 0xFFFFFF00 0xFFFFFF00 0xFFFFC000 = 0#32 := by decide
theorem test_FV1_pack : pack 0 0x56 1 0 ≠ 0x56000001#32 := by decide
theorem test_FV2_pack : pack 0 0 256 0 ≠ 0x00000100#32 := by decide
theorem test_FV3_pack : pack 0 0 0 16384 ≠ 0x40000000#32 := by decide
theorem test_FV4_pack : pack 0 0 300 0 = 0x0000002C#32 := by decide
theorem test_FV8_pack : pack 1 0x56 18 4 ≠ 0x00125601#32 := by decide
theorem test_X9_extract :
    (extractDirection 0x56000001#32, extractType 0x56000001#32, extractNumber 0x56000001#32, extractSize 0x56000001#32)
      = (1#32, 0#32, 1#32, 5632#32) := by decide
theorem test_X11_extract :
    (extractDirection 0xAAAAAAAA#32, extractType 0xAAAAAAAA#32, extractNumber 0xAAAAAAAA#32, extractSize 0xAAAAAAAA#32)
      = (2#32, 170#32, 170#32, 10922#32) := by decide
theorem test_P3_direction_tests : hasWrite (extractDirection 0x80045612#32).toNat = false
    ∧ hasRead (extractDirection 0x80045612#32).toNat = true := by decide
theorem test_outputs_fit_W_OUT (port : OutPort) (p : Inputs) : (readOut port p).toNat < 2 ^ Config.W_OUT :=
  (readOut port p).isLt

/-! ### Steps -/

theorem test_first_step_after_reset :
    latest (step (State.reset.withFetchWord 32 0x40045612)) = some ⟨.enc_id, 0x40045612#32⟩ := by decide
theorem test_first_step_after_reset_none :
    latest (step (State.reset.withFetchWord 32 0)) = some ⟨.enc_id, 0#32⟩ := by decide

/-- Source scenario 2's operands on the packer while `enc_id` feeds `dec_id`: program P1 of 95_test_vectors.md. -/
theorem test_P1_connected_read :
    results (step { State.reset with pending := [.assign { Inputs.zero with
      enc_direction := 1, enc_type := 0x56, enc_number := 18, enc_size := 4 } .enc_id
      [.enc_id, .dec_direction, .dec_type, .dec_number, .dec_size]] })
    = [⟨.enc_id, 0x40045612#32⟩, ⟨.dec_direction, 1#32⟩, ⟨.dec_type, 0x56#32⟩, ⟨.dec_number, 18#32⟩, ⟨.dec_size, 4#32⟩] := by decide

/-- Inputs changed and every output ignored: nothing is recorded. -/
theorem test_unread_assignment_records_nothing :
    results (step { busy with pending := [.assign Inputs.zero .host []] }) = busy.observed := by decide

/-! ### Witnesses: the hypotheses of each statement can be met together -/

theorem witness_PackerUseFrame : (Instr.encodeRead 1 2 3).op.computedBy = .PACK ∧ busy.idSource = .host
    ∧ OutPort.dec_type ≠ .enc_id ∧ ∃ t, exec (.encodeRead 1 2 3) busy = .next t := ⟨rfl, rfl, by decide, _, rfl⟩

theorem witness_ExtractorUseFrame : (Instr.decodeType 7#32).op.computedBy ≠ .PACK
    ∧ ∃ t, exec (.decodeType 7#32) busy = .next t := ⟨by decide, _, rfl⟩

theorem witness_OutputsDependOnTheirOwnUnit :
    (∃ p q : Inputs, p ≠ q ∧ p.enc_direction = q.enc_direction ∧ p.enc_type = q.enc_type ∧ p.enc_number = q.enc_number
      ∧ p.enc_size = q.enc_size)
    ∧ ∃ p q : Inputs, p ≠ q ∧ p.dec_id = q.dec_id ∧ OutPort.dec_size ≠ .enc_id :=
  ⟨⟨busy.inputs, { busy.inputs with dec_id := 0 }, by decide⟩, ⟨busy.inputs, { busy.inputs with enc_size := 0 }, by decide⟩⟩

/-- One bit of each field of `enc_id`, at the field's ends. -/
theorem witness_EachOutputBitHasOneInputBit :
    (0 < 32 ∧ 7 < 32 ∧ 7 < 8) ∧ (8 < 32 ∧ ¬ 8 < 8 ∧ 15 < 16) ∧ (16 < 32 ∧ ¬ 16 < 16 ∧ 29 < 30) ∧ (¬ 30 < 30 ∧ 31 < 32) := by decide

theorem witness_AllExtractorsSeeTheSameWord : ∃ t, exec (.decodeSize 0xDEADBEEF#32) busy = .next t := ⟨_, rfl⟩

theorem witness_AllExtractorsSeeTheSameWord_direction : ∃ t, exec (.decodeDirection 0xDEADBEEF#32) busy = .next t := ⟨_, rfl⟩

theorem witness_AllExtractorsSeeTheSameWord_type : ∃ t, exec (.decodeType 0xDEADBEEF#32) busy = .next t := ⟨_, rfl⟩

theorem witness_AllExtractorsSeeTheSameWord_number : ∃ t, exec (.decodeNumber 0xDEADBEEF#32) busy = .next t := ⟨_, rfl⟩

theorem witness_RoundTripRecoversInRangeOperands : 3 ≤ 3 ∧ 255 ≤ 255 ∧ 0 ≤ 255 ∧ 16383 ≤ 16383 := by decide

theorem witness_EncodeIsABijectionInRange :
    (3 ≤ 3 ∧ 255 ≤ 255 ∧ 0 ≤ 255 ∧ 16383 ≤ 16383) ∧ pack 3 255 0 16383 = pack 3 255 0 16383 := by decide

theorem witness_ShiftThenMaskPacksTheSame : 0x10004 < 2 ^ 32 ∧ 0x3FFF <<< 16 < 2 ^ 32 := by decide

theorem witness_ExtractorSeesOnlyItsField :
    (0xC0000000#32 &&& 0xC0000000#32 = 0xFFFFFFFF#32 &&& 0xC0000000#32)
    ∧ (0x0000FF00#32 &&& 0x0000FF00#32 = 0xFFFFFFFF#32 &&& 0x0000FF00#32)
    ∧ (0x000000FF#32 &&& 0x000000FF#32 = 0xFFFFFFFF#32 &&& 0x000000FF#32)
    ∧ (0x3FFF0000#32 &&& 0x3FFF0000#32 = 0xFFFFFFFF#32 &&& 0x3FFF0000#32) := by decide

theorem witness_ExtremesAndOrderOfWords : (2 < 3 ∧ 3 ≤ 3) ∧ (254 < 255 ∧ 255 ≤ 255) ∧ (16382 < 16383 ∧ 16383 ≤ 16383) := by decide

theorem witness_EncodeDependsOnLowBitsOnly :
    (6 % 2 ^ 2 = 2 % 2 ^ 2 ∧ 0x156 % 2 ^ 8 = 0x56 % 2 ^ 8 ∧ 0x112 % 2 ^ 8 = 0x12 % 2 ^ 8 ∧ 0x4004 % 2 ^ 14 = 4 % 2 ^ 14)
    ∧ 14 ≤ 14 := by decide

theorem witness_DerivedFormsDoNotCoverEveryWord : 4 % 4 = 0 ∧ 16385 % 16384 ≠ 0 := by decide

theorem witness_DecodeOfEncodeIsTheInstruction :
    (Instr.encode 3 255 255 16383).inRange = true ∧ (Instr.encodeNone 255 255).inRange = true
    ∧ (Instr.encodeRead 255 255 16383).inRange = true ∧ (Instr.encodeWrite 255 255 16383).inRange = true
    ∧ (Instr.encodeReadWrite 255 255 16383).inRange = true ∧ (Instr.decodeDirection 0xFFFFFFFF#32).inRange = true
    ∧ (Instr.decodeType 0xFFFFFFFF#32).inRange = true ∧ (Instr.decodeNumber 0xFFFFFFFF#32).inRange = true
    ∧ (Instr.decodeSize 0xFFFFFFFF#32).inRange = true := by decide

theorem witness_EncodeOfDecodeIsTheWord : decode .encodeWrite 0x7FFFFFFF#32 = .instr (.encodeWrite 255 255 16383) := by decide

theorem witness_EncoderAgreesWithThePacker : (Instr.encode 4 256 256 16384).op.computedBy = .PACK := rfl

theorem witness_TableDecoderClassifiesEveryWord : (31 ≠ 32 ∨ 2 ^ 32 ≤ 0) ∧ (32 ≠ 32 ∨ 2 ^ 32 ≤ 0x100000000) := by decide

theorem witness_StepMakesTheNextPresentation :
    (presentNext (.encodeNone 1 2) busy).pending = .use (.encodeNone 1 2) :: [] ∧ busy.pending = []
    ∧ connected.pending = .assign busy.inputs .enc_id [.dec_direction, .dec_type, .dec_number, .dec_size] :: [] :=
  ⟨rfl, rfl, rfl⟩

theorem witness_StepMakesTheNextPresentation_host :
    { busy with pending := [.assign Inputs.zero .host []] }.pending = .assign Inputs.zero .host [] :: [] := rfl

theorem witness_StepRunsTheDecodedWord : decodeTableWord 32 0xC0010101 = some (.encodeReadWrite 1 1 1) := by decide

/-- A state with a recorded result and an act to come. -/
theorem witness_EveryStepKeepsTheInvariant : connected.Inv ∧ ∃ t, step connected = .next t := by
  refine ⟨⟨?_, ?_⟩, _, rfl⟩
  · intro o ho
    rcases List.mem_singleton.1 ho with rfl
    decide
  · intro o ho
    rcases List.mem_singleton.1 ho with rfl
    exact ⟨busy.inputs, by decide⟩

theorem witness_StepTradesActsForTheirResults :
    (∃ t, step connected = .next t) ∧ (∃ t, step (presentNext (.decodeSize 9#32) busy) = .next t)
    ∧ ∃ t, step busy = .next t := ⟨⟨_, rfl⟩, ⟨_, rfl⟩, ⟨_, rfl⟩⟩

theorem witness_NewResultsAreOnTheirPorts :
    (∃ t, step connected = .next t) ∧ ∃ t, step (presentNext (.encodeNone 1 2) busy) = .next t := ⟨⟨_, rfl⟩, ⟨_, rfl⟩⟩

theorem witness_ConnectedPackerFeedsTheExtractors :
    ({ busy with idSource := .enc_id } : State).idSource = .enc_id
    ∧ ∃ t, exec (.encode 7 0x156 0x112 0x4004) { busy with idSource := .enc_id } = .next t := ⟨rfl, _, rfl⟩

theorem witness_SimultaneousUsesGiveTheirSeparateResults :
    ∃ s : State, s.pending = .assign
      { enc_direction := BitVec.ofNat 32 7, enc_type := BitVec.ofNat 32 0x156, enc_number := BitVec.ofNat 32 0x112,
        enc_size := BitVec.ofNat 32 0x4004, dec_id := 0xDEADBEEF#32 } .host
      [.enc_id, .dec_direction, .dec_type, .dec_number, .dec_size] :: [] := ⟨{ busy with pending := _ }, rfl⟩

theorem witness_HistoryInfluencesNoResult :
    busy ≠ State.reset ∧ (∃ t, exec (.decodeSize 9#32) busy = .next t) ∧ ∃ t, exec (.decodeSize 9#32) State.reset = .next t :=
  ⟨by decide, ⟨_, rfl⟩, ⟨_, rfl⟩⟩

theorem witness_UsesOfDifferentUnitsCommute :
    ∃ a b c e : State, (Instr.encode 1 2 3 4).op.computedBy = .PACK ∧ (Instr.decodeSize 9#32).op.computedBy ≠ .PACK
      ∧ exec (.encode 1 2 3 4) busy = .next a ∧ exec (.decodeSize 9#32) a = .next b
      ∧ exec (.decodeSize 9#32) busy = .next c ∧ exec (.encode 1 2 3 4) c = .next e :=
  ⟨_, _, _, _, rfl, by decide, rfl, rfl, rfl, rfl⟩

theorem witness_RepeatedUseIsIdempotent :
    ∃ t u : State, exec (.encode 4 256 256 16384) busy = .next t ∧ exec (.encode 4 256 256 16384) t = .next u :=
  ⟨_, _, rfl, rfl⟩

theorem witness_WellFormedOperandsReachThePorts :
    (Instr.encode 0xFFFFFFFF 0xFFFFFFFF 0xFFFFFFFF 0xFFFFFFFF).wellFormed = true
    ∧ ∃ u, exec (.encode 0xFFFFFFFF 0xFFFFFFFF 0xFFFFFFFF 0xFFFFFFFF) busy = .next u :=
  ⟨by decide, _, rfl⟩

end Sys2Proof.Tests
end

/-! ## Proofs about the state: what the ports depend on, and what a use leaves unchanged

The shared facts come first (outputs and their inputs, the two kinds of use, what a use records, the connected ports), then
the theorems that settle the state's obligations. -/

namespace Sys2Proof.Machine

/-! ### What each output depends on (10_state.md R40) -/

/-- The packer's output is a function of the four packer ports. -/
theorem readOut_enc_id_congr {p q : Inputs} (hdir : p.enc_direction = q.enc_direction) (htype : p.enc_type = q.enc_type)
    (hnum : p.enc_number = q.enc_number) (hsize : p.enc_size = q.enc_size) : readOut .enc_id p = readOut .enc_id q := by
  simp only [readOut, hdir, htype, hnum, hsize]

/-- An extractor's output is a function of the identifier port. -/
theorem readOut_congr_dec_id {port : OutPort} {p q : Inputs} (hport : port ≠ .enc_id) (hid : p.dec_id = q.dec_id) :
    readOut port p = readOut port q := by
  cases port with
  | enc_id => exact absurd rfl hport
  | dec_direction => exact congrArg extractDirection hid
  | dec_type => exact congrArg extractType hid
  | dec_number => exact congrArg extractNumber hid
  | dec_size => exact congrArg extractSize hid

theorem readOut_enc_id_driveIdentifier (id : Word) (p : Inputs) :
    readOut .enc_id (driveIdentifier id p) = readOut .enc_id p :=
  readOut_enc_id_congr rfl rfl rfl rfl

theorem readOut_enc_id_ports (s : State) : readOut .enc_id s.ports = readOut .enc_id s.inputs :=
  readOut_enc_id_carried s.idSource s.inputs

theorem ports_of_idSource_host {s : State} (h : s.idSource = .host) : s.ports = s.inputs := by
  rw [State.ports, h, carried_host]

/-! ### What `exec` can answer, by kind of operation -/

theorem exec_packer_next {i : Instr} {s t : State} (hi : i.op.computedBy = .PACK) (h : exec i s = .next t) :
    ∃ dir type num size, t = usePacker dir type num size s := by
  obtain ⟨dir, type, num, size, -, hexec⟩ | ⟨_, _, hne, -, -⟩ := exec_cases i
  · exact ⟨dir, type, num, size, Host.Outcome.next.inj (h.symm.trans (hexec s))⟩
  · exact absurd hi hne

theorem exec_extractor_next {i : Instr} {s t : State} (hi : i.op.computedBy ≠ .PACK) (h : exec i s = .next t) :
    ∃ port id, port ≠ OutPort.enc_id ∧ t = useExtractor port id s := by
  obtain ⟨_, _, _, _, hpack, -⟩ | ⟨port, id, -, hport, hexec⟩ := exec_cases i
  · exact absurd hpack hi
  · exact ⟨port, id, hport, Host.Outcome.next.inj (h.symm.trans (hexec s))⟩

theorem usePacker_observed (dir type num size : Nat) (s : State) :
    (usePacker dir type num size s).observed = s.observed ++ [⟨.enc_id, pack dir type num size⟩] := by
  obtain ⟨-, -, hobs, -, -⟩ := usePacker_spec dir type num size s
  exact hobs

/-- Every operation answers `next` in every state, and records the source's function of its operands (R16, R20). -/
theorem exec_next_resultOf (i : Instr) (s : State) :
    ∃ t, exec i s = .next t ∧ t.observed = s.observed ++ [resultOf i] := by
  cases i with
  | encode dir type num size => exact ⟨_, rfl, usePacker_observed dir type num size s⟩
  | encodeNone type num => exact ⟨_, rfl, usePacker_observed Config.NONE type num 0 s⟩
  | encodeRead type num size => exact ⟨_, rfl, usePacker_observed Config.READ type num size s⟩
  | encodeWrite type num size => exact ⟨_, rfl, usePacker_observed Config.WRITE type num size s⟩
  | encodeReadWrite type num size => exact ⟨_, rfl, usePacker_observed (Config.READ ||| Config.WRITE) type num size s⟩
  | decodeDirection id => exact ⟨_, rfl, rfl⟩
  | decodeType id => exact ⟨_, rfl, rfl⟩
  | decodeNumber id => exact ⟨_, rfl, rfl⟩
  | decodeSize id => exact ⟨_, rfl, rfl⟩

theorem exec_observed {i : Instr} {s t : State} (h : exec i s = .next t) : t.observed = s.observed ++ [resultOf i] := by
  obtain ⟨u, hu, hobs⟩ := exec_next_resultOf i s
  rwa [Host.Outcome.next.inj (h.symm.trans hu)]

/-! ### The extractors on a packed word (42_codec_laws.md R143) -/

@[simp] theorem extractDirection_pack_toNat (d t n z : Nat) : (extractDirection (pack d t n z)).toNat = d % 4 := by
  rw [extractDirection_toNat, pack_toNat]
  omega

@[simp] theorem extractType_pack_toNat (d t n z : Nat) : (extractType (pack d t n z)).toNat = t % 256 := by
  rw [extractType_toNat, pack_toNat]
  omega

@[simp] theorem extractNumber_pack_toNat (d t n z : Nat) : (extractNumber (pack d t n z)).toNat = n % 256 := by
  rw [extractNumber_toNat, pack_toNat]
  omega

@[simp] theorem extractSize_pack_toNat (d t n z : Nat) : (extractSize (pack d t n z)).toNat = z % 16384 := by
  rw [extractSize_toNat, pack_toNat]
  omega

/-! ### Operands on the ports, and the invariant of an empty record -/

theorem toNat_ofNat_of_fitsPort {v : Nat} (h : fitsPort v = true) : (BitVec.ofNat 32 v).toNat = v :=
  (BitVec.toNat_ofNat v 32).trans (Nat.mod_eq_of_lt (fitsPort_iff.1 h))

theorem wellFormed_encode_iff {d t n z : Nat} : (Instr.encode d t n z).wellFormed = true ↔
    fitsPort d = true ∧ fitsPort t = true ∧ fitsPort n = true ∧ fitsPort z = true := by
  simp only [Instr.wellFormed, Bool.and_eq_true, and_assoc]

theorem inv_of_observed_eq_nil {s : State} (h : s.observed = []) : s.Inv where
  resultsInRange := by simp [State.ResultsInRange, h]
  resultsObservable := by simp [State.ResultsObservable, h]

/-! ### The obligations -/

/-- Settles O12: such an operation is one use of the packer, whose drive leaves `dec_id` alone. -/
theorem packerUseFrame : Obligations.PackerUseFrame := by
  intro i s t hi h
  obtain ⟨dir, type, num, size, rfl⟩ := exec_packer_next hi h
  obtain ⟨hin, hsrc, hobs, hpend, hblock⟩ := usePacker_spec dir type num size s
  have hid : (usePacker dir type num size s).inputs.dec_id = s.inputs.dec_id := by rw [hin, drivePacker_dec_id]
  refine ⟨hblock, hpend, hid, hsrc, ⟨_, hobs⟩, fun port hport hhost => ?_⟩
  rw [ports_of_idSource_host (hsrc.trans hhost), ports_of_idSource_host hhost]
  exact readOut_congr_dec_id hport hid

/-- Settles O13: such an operation is one use of an extractor, which drives `dec_id` alone. -/
theorem extractorUseFrame : Obligations.ExtractorUseFrame := by
  intro i s t hi h
  obtain ⟨port, id, hport, rfl⟩ := exec_extractor_next hi h
  obtain ⟨hin, hsrc, hobs, hpend, hblock⟩ := useExtractor_spec port id s
  refine ⟨hblock, hpend, hsrc, driveIdentifier_enc_direction id s.inputs, driveIdentifier_enc_type id s.inputs,
    driveIdentifier_enc_number id s.inputs, driveIdentifier_enc_size id s.inputs, ⟨_, hport, hobs⟩, ?_⟩
  rw [readOut_enc_id_ports, readOut_enc_id_ports, hin, readOut_enc_id_driveIdentifier]

/-- Settles O20: on connected ports each extractor reads the packed word. -/
theorem connectedPortsRoundTrip : Obligations.ConnectedPortsRoundTrip := fun p =>
  ⟨extractDirection_pack_toNat .., extractType_pack_toNat .., extractNumber_pack_toNat .., extractSize_pack_toNat ..,
    readOut_enc_id_carried .enc_id p⟩

/-- Settles O53: from either state the result recorded is `resultOf i`. -/
theorem historyInfluencesNoResult : Obligations.HistoryInfluencesNoResult :=
  fun i _ _ _ _ h₁ h₂ => ⟨resultOf i, exec_observed h₁, exec_observed h₂⟩

/-- Settles O57: the packer's ports carry the operands modulo 2 ^ 32, which keeps an operand that fits. -/
theorem wellFormedOperandsReachThePorts : Obligations.WellFormedOperandsReachThePorts := by
  intro d t n z s u hwf h
  obtain ⟨hd, ht, hn, hz⟩ := wellFormed_encode_iff.1 hwf
  cases h
  exact ⟨toNat_ofNat_of_fitsPort hd, toNat_ofNat_of_fitsPort ht, toNat_ofNat_of_fitsPort hn, toNat_ofNat_of_fitsPort hz⟩

/-- Settles O1: widths, offsets, masks and directions, each group by computation. -/
theorem constantsHaveTheSpecValues : Obligations.ConstantsHaveTheSpecValues := by
  refine ⟨?widths, ?offsets, ?masks, ?directions⟩
  case widths => decide
  case offsets => decide
  case masks => decide
  case directions => decide

/-- Settles O14: PACK reads the four `enc_` ports and the extractors `dec_id`. -/
theorem outputsDependOnTheirOwnUnit : Obligations.OutputsDependOnTheirOwnUnit :=
  ⟨fun _ _ => readOut_enc_id_congr, fun _ _ _ => readOut_congr_dec_id⟩

/-- Settles O49: nothing is recorded at reset. -/
theorem invariantHoldsAtReset : Obligations.InvariantHoldsAtReset := inv_of_observed_eq_nil rfl

end Sys2Proof.Machine

/-! ## Proofs about memory: two uses one after the other (20_memory.md)

The block remembers nothing between uses, so a use is known by what it drives and where `dec_id` is fed from afterwards; both
are the operation's own, the same in every state. -/

namespace Sys2Proof.Machine

/-! ### What an operation drives, in every state -/

theorem exec_packer_drives {i : Instr} (hi : i.op.computedBy = .PACK) :
    ∃ dir type num size, ∀ {s t : State}, exec i s = .next t →
      t.inputs = drivePacker dir type num size s.inputs ∧ t.idSource = s.idSource ∧ t.pending = s.pending := by
  obtain ⟨dir, type, num, size, -, hexec⟩ | ⟨_, _, hne, -, -⟩ := exec_cases i
  · refine ⟨dir, type, num, size, fun {s t} h => ?_⟩
    obtain rfl : usePacker dir type num size s = t := Host.Outcome.next.inj ((hexec s).symm.trans h)
    obtain ⟨hin, hsrc, -, hpend, -⟩ := usePacker_spec dir type num size s
    exact ⟨hin, hsrc, hpend⟩
  · exact absurd hi hne

theorem exec_extractor_drives {i : Instr} (hi : i.op.computedBy ≠ .PACK) :
    ∃ id, ∀ {s t : State}, exec i s = .next t →
      t.inputs = driveIdentifier id s.inputs ∧ t.idSource = .host ∧ t.pending = s.pending := by
  obtain ⟨_, _, _, _, hpack, -⟩ | ⟨port, id, -, -, hexec⟩ := exec_cases i
  · exact absurd hpack hi
  · refine ⟨id, fun {s t} h => ?_⟩
    obtain rfl : useExtractor port id s = t := Host.Outcome.next.inj ((hexec s).symm.trans h)
    obtain ⟨hin, hsrc, -, hpend, -⟩ := useExtractor_spec port id s
    exact ⟨hin, hsrc, hpend⟩

/-! ### Drives of the two units, and a drive repeated -/

theorem driveIdentifier_drivePacker (id : Word) (dir type num size : Nat) (p : Inputs) :
    driveIdentifier id (drivePacker dir type num size p) = drivePacker dir type num size (driveIdentifier id p) := rfl

theorem drivePacker_drivePacker (dir type num size : Nat) (p : Inputs) :
    drivePacker dir type num size (drivePacker dir type num size p) = drivePacker dir type num size p := rfl

theorem driveIdentifier_driveIdentifier (id : Word) (p : Inputs) :
    driveIdentifier id (driveIdentifier id p) = driveIdentifier id p := rfl

/-! ### The results of two uses -/

theorem exec_exec_observed {i j : Instr} {s t u : State} (hi : exec i s = .next t) (hj : exec j t = .next u) :
    u.observed = s.observed ++ [resultOf i, resultOf j] := by
  rw [exec_observed hj, exec_observed hi, List.append_assoc, List.singleton_append]

/-! ### The obligations -/

/-- Settles O54: the two units are driven on ports of their own, and only the extractor use moves the feed of `dec_id`. -/
theorem usesOfDifferentUnitsCommute : Obligations.UsesOfDifferentUnitsCommute := by
  intro i j s a b c e hi hj ha hb hc he
  obtain ⟨dir, type, num, size, hpacker⟩ := exec_packer_drives hi
  obtain ⟨id, hextractor⟩ := exec_extractor_drives hj
  obtain ⟨hain, -, hapend⟩ := hpacker ha
  obtain ⟨hbin, hbsrc, hbpend⟩ := hextractor hb
  obtain ⟨hcin, hcsrc, hcpend⟩ := hextractor hc
  obtain ⟨hein, hesrc, hepend⟩ := hpacker he
  refine ⟨?inputs, ?idSource, ?pending, resultOf i, resultOf j, exec_exec_observed ha hb, exec_exec_observed hc he⟩
  case inputs => rw [hbin, hain, hein, hcin, driveIdentifier_drivePacker]
  case idSource => rw [hbsrc, hesrc, hcsrc]
  case pending => rw [hbpend, hapend, hepend, hcpend]

/-- Settles O55: whichever unit the operation uses, driving the same values again changes no port. -/
theorem repeatedUseIsIdempotent : Obligations.RepeatedUseIsIdempotent := by
  intro i s t u ht hu
  have hports : u.inputs = t.inputs ∧ u.idSource = t.idSource := by
    by_cases hi : i.op.computedBy = .PACK
    · obtain ⟨dir, type, num, size, hpacker⟩ := exec_packer_drives hi
      obtain ⟨htin, -, -⟩ := hpacker ht
      obtain ⟨huin, husrc, -⟩ := hpacker hu
      exact ⟨by rw [huin, htin, drivePacker_drivePacker], husrc⟩
    · obtain ⟨id, hextractor⟩ := exec_extractor_drives hi
      obtain ⟨htin, htsrc, -⟩ := hextractor ht
      obtain ⟨huin, husrc, -⟩ := hextractor hu
      exact ⟨by rw [huin, htin, driveIdentifier_driveIdentifier], husrc.trans htsrc.symm⟩
  obtain ⟨hin, hsrc⟩ := hports
  exact ⟨hin, hsrc, resultOf i, exec_observed ht, exec_exec_observed ht hu⟩

end Sys2Proof.Machine

/-! ## Proofs about the encoding: rows, decoder and encoder (30_encoding.md)

A word is its four fields, and a row's fixed bits say which values its direction (and, for ENCODE_NONE, size) field has. From
these, reading a row's operands and encoding them are inverse to each other; the obligations about the decoder follow. -/

namespace Sys2Proof

open Sys2Proof.Machine

/-! ### A word and its fields (R70) -/

/-- No bit of a word lies outside its four fields. -/
theorem assemble_fields (w : Word) : assemble (fieldDirection w) (fieldSize w) (fieldType w) (fieldNumber w) = w := by
  apply BitVec.eq_of_toNat_eq
  rw [assemble_toNat, fieldDirection_toNat, fieldSize_toNat, fieldType_toNat, fieldNumber_toNat]
  have := w.isLt
  omega

/-- The fixed bits of the three sized rows are the direction field. -/
theorem and_directionBits_eq_iff (w : Word) (d : BitVec 2) : w &&& 0xC0000000#32 = d ++ 0#30 ↔ fieldDirection w = d := by
  conv_lhs => rw [← assemble_fields w, Laws.RowMatch.assemble_direction]
  refine ⟨fun h => ?_, fun h => by rw [h]⟩
  have h' : (fieldDirection w ++ 0#30).toNat = (d ++ 0#30).toNat := congrArg BitVec.toNat h
  apply BitVec.eq_of_toNat_eq
  simp only [BitVec.toNat_append, Nat.shiftLeft_eq, BitVec.toNat_ofNat, Nat.zero_mod, Nat.or_zero] at h'
  omega

/-- The fixed bits of ENCODE_NONE's row are the direction and size fields. -/
theorem and_directionSizeBits_eq_zero_iff (w : Word) :
    w &&& 0xFFFF0000#32 = 0#32 ↔ fieldDirection w = 0#2 ∧ fieldSize w = 0#14 := by
  have hbits : (w &&& 0xFFFF0000#32).toNat = w.toNat / 2 ^ 16 % 2 ^ 16 * 2 ^ 16 := inPlace_toNat w 16 16 (by decide)
  rw [BitVec.toNat_eq, BitVec.toNat_eq, BitVec.toNat_eq, hbits, fieldDirection_toNat, fieldSize_toNat]
  have := w.isLt
  simp only [BitVec.toNat_ofNat]
  omega

/-! ### Rows, and what they accept (R81) -/

theorem accepts_iff {op : Op} {w : Word} : op.accepts w = true ↔ w &&& op.mask = op.pattern := beq_iff_eq

theorem accepts_encodeNone_iff {w : Word} : Op.accepts .encodeNone w = true ↔ fieldDirection w = 0#2 ∧ fieldSize w = 0#14 :=
  accepts_iff.trans (and_directionSizeBits_eq_zero_iff w)

theorem accepts_encodeRead_iff {w : Word} : Op.accepts .encodeRead w = true ↔ fieldDirection w = 0b10#2 :=
  accepts_iff.trans (and_directionBits_eq_iff w 0b10#2)

theorem accepts_encodeWrite_iff {w : Word} : Op.accepts .encodeWrite w = true ↔ fieldDirection w = 0b01#2 :=
  accepts_iff.trans (and_directionBits_eq_iff w 0b01#2)

theorem accepts_encodeReadWrite_iff {w : Word} : Op.accepts .encodeReadWrite w = true ↔ fieldDirection w = 0b11#2 :=
  accepts_iff.trans (and_directionBits_eq_iff w 0b11#2)

/-- Every operation's encoded word is one of its row's. -/
theorem accepts_encode (i : Instr) : i.op.accepts (encode i) = true := by
  cases i with
  | encode d t n z => exact Laws.RowMatch.encode d t n z
  | encodeNone t n => exact Laws.RowMatch.encodeNone t n
  | encodeRead t n z => exact Laws.RowMatch.encodeRead t n z
  | encodeWrite t n z => exact Laws.RowMatch.encodeWrite t n z
  | encodeReadWrite t n z => exact Laws.RowMatch.encodeReadWrite t n z
  | decodeDirection id => exact Laws.RowMatch.decodeDirection id
  | decodeType id => exact Laws.RowMatch.decodeType id
  | decodeNumber id => exact Laws.RowMatch.decodeNumber id
  | decodeSize id => exact Laws.RowMatch.decodeSize id

theorem encode_and_mask (i : Instr) : encode i &&& i.op.mask = i.op.pattern := accepts_iff.1 (accepts_encode i)

/-! ### Reading a row's operands and encoding them -/

@[simp] theorem operandsOf_op (op : Op) (w : Word) : (operandsOf op w).op = op := by cases op <;> rfl

/-- A field's value lies in the field's legal range. -/
theorem inField_toNat {k : Nat} (v : BitVec k) : inField v.toNat (2 ^ k - 1) = true :=
  inField_iff.2 (Nat.le_sub_one_of_lt v.isLt)

/-- A value in a field's legal range is held whole by the field. -/
theorem toNat_ofNat_of_inField {v : Nat} (k : Nat) (h : inField v (2 ^ k - 1) = true) : (BitVec.ofNat k v).toNat = v :=
  (BitVec.toNat_ofNat v k).trans (Nat.mod_eq_of_lt (Nat.lt_of_le_pred (Nat.two_pow_pos k) (inField_iff.1 h)))

theorem operandsOf_inRange (op : Op) (w : Word) : (operandsOf op w).inRange = true := by
  have hd : inField (fieldDirection w).toNat Config.DIRECTION_MASK = true := inField_toNat _
  have hz : inField (fieldSize w).toNat Config.SIZE_MASK = true := inField_toNat _
  have ht : inField (fieldType w).toNat Config.TYPE_MASK = true := inField_toNat _
  have hn : inField (fieldNumber w).toNat Config.NUMBER_MASK = true := inField_toNat _
  cases op <;> simp only [operandsOf, Instr.inRange, hd, hz, ht, hn, Bool.and_self]

/-- On a word its row accepts, encoding the operands read gives the word back. -/
theorem encode_operandsOf {op : Op} {w : Word} (h : op.accepts w = true) : encode (operandsOf op w) = w := by
  cases op with
  | encode => simpa [operandsOf, encode] using assemble_fields w
  | encodeNone =>
    obtain ⟨hd, hz⟩ := accepts_encodeNone_iff.1 h
    simpa [operandsOf, encode, hd, hz] using assemble_fields w
  | encodeRead => simpa [operandsOf, encode, accepts_encodeRead_iff.1 h] using assemble_fields w
  | encodeWrite => simpa [operandsOf, encode, accepts_encodeWrite_iff.1 h] using assemble_fields w
  | encodeReadWrite => simpa [operandsOf, encode, accepts_encodeReadWrite_iff.1 h] using assemble_fields w
  | decodeDirection => rfl
  | decodeType => rfl
  | decodeNumber => rfl
  | decodeSize => rfl

/-- The operands a row reads from an encoded word are the operation's, where the fields hold them whole. -/
theorem operandsOf_encode {i : Instr} (h : i.inRange = true) : operandsOf i.op (encode i) = i := by
  cases i with
  | encode d t n z =>
    simp only [Instr.inRange, Bool.and_eq_true] at h
    obtain ⟨⟨⟨hd, ht⟩, hn⟩, hz⟩ := h
    simp only [Instr.op, operandsOf, encode, fieldDirection_assemble, fieldSize_assemble, fieldType_assemble,
      fieldNumber_assemble, toNat_ofNat_of_inField 2 hd, toNat_ofNat_of_inField 8 ht, toNat_ofNat_of_inField 8 hn,
      toNat_ofNat_of_inField 14 hz]
  | encodeNone t n =>
    simp only [Instr.inRange, Bool.and_eq_true] at h
    obtain ⟨ht, hn⟩ := h
    simp only [Instr.op, operandsOf, encode, fieldType_assemble, fieldNumber_assemble, toNat_ofNat_of_inField 8 ht,
      toNat_ofNat_of_inField 8 hn]
  | encodeRead t n z | encodeWrite t n z | encodeReadWrite t n z =>
    simp only [Instr.inRange, Bool.and_eq_true] at h
    obtain ⟨⟨ht, hn⟩, hz⟩ := h
    simp only [Instr.op, operandsOf, encode, fieldSize_assemble, fieldType_assemble, fieldNumber_assemble,
      toNat_ofNat_of_inField 8 ht, toNat_ofNat_of_inField 8 hn, toNat_ofNat_of_inField 14 hz]
  | decodeDirection id | decodeType id | decodeNumber id | decodeSize id => rfl

/-! ### The packer's functions and the encoder -/

theorem pack_eq_assemble (d t n z : Nat) :
    pack d t n z = assemble (BitVec.ofNat 2 d) (BitVec.ofNat 14 z) (BitVec.ofNat 8 t) (BitVec.ofNat 8 n) := by
  apply BitVec.eq_of_toNat_eq
  simp only [pack_toNat, assemble_toNat, BitVec.toNat_ofNat, Nat.reducePow]

theorem pack_eq_encode (d t n z : Nat) : pack d t n z = encode (.encode d t n z) := pack_eq_assemble d t n z

theorem packNone_eq_encode (t n : Nat) : packNone t n = encode (.encodeNone t n) := pack_eq_assemble Config.NONE t n 0

theorem packRead_eq_encode (t n z : Nat) : packRead t n z = encode (.encodeRead t n z) := pack_eq_assemble Config.READ t n z

theorem packWrite_eq_encode (t n z : Nat) : packWrite t n z = encode (.encodeWrite t n z) :=
  pack_eq_assemble Config.WRITE t n z

theorem packReadWrite_eq_encode (t n z : Nat) : packReadWrite t n z = encode (.encodeReadWrite t n z) :=
  pack_eq_assemble (Config.READ ||| Config.WRITE) t n z

/-! ### The table decoder -/

/-- The row `classify` takes, by the fixed bits the word shows. -/
theorem classify_eq_ite (w : Word) :
    classify w = (if w &&& 0xFFFF0000#32 = 0 then .encodeNone else if w &&& 0xC0000000#32 = 0x80000000#32 then .encodeRead
      else if w &&& 0xC0000000#32 = 0x40000000#32 then .encodeWrite
      else if w &&& 0xC0000000#32 = 0xC0000000#32 then .encodeReadWrite else .encode) := by
  have hnone : w &&& 0xFFFF0000#32 = 0 ↔ _ := and_directionSizeBits_eq_zero_iff w
  have hread : w &&& 0xC0000000#32 = 0x80000000#32 ↔ _ := and_directionBits_eq_iff w 0b10#2
  have hwrite : w &&& 0xC0000000#32 = 0x40000000#32 ↔ _ := and_directionBits_eq_iff w 0b01#2
  have hreadWrite : w &&& 0xC0000000#32 = 0xC0000000#32 ↔ _ := and_directionBits_eq_iff w 0b11#2
  simp only [hnone, hread, hwrite, hreadWrite]
  have hd : ∀ d : BitVec 2, d = 0b00#2 ∨ d = 0b01#2 ∨ d = 0b10#2 ∨ d = 0b11#2 := by decide
  obtain h | h | h | h := hd (fieldDirection w) <;> simp [classify, directionName, h]

/-- The row taken for a word is one that accepts it. -/
theorem accepts_classify (w : Word) : (classify w).accepts w = true := by
  rw [classify_eq_ite]
  split_ifs with hnone hread hwrite hreadWrite
  · exact accepts_iff.2 hnone
  · exact accepts_iff.2 hread
  · exact accepts_iff.2 hwrite
  · exact accepts_iff.2 hreadWrite
  · exact Laws.RowMatch.accepts_of_mask_zero rfl rfl w

theorem decodeBits_toNat (w : Word) : decodeBits 32 w.toNat = decode (classify w) w := by
  simp [decodeBits, w.isLt]

theorem decodeBits_of_not_word {nbits w : Nat} (h : nbits ≠ 32 ∨ 2 ^ 32 ≤ w) : decodeBits nbits w = .rejected (.width nbits) :=
  if_neg (by omega)

theorem decodeTableWord_of_instr {nbits w : Nat} {i : Instr} (h : decodeBits nbits w = .instr i) :
    decodeTableWord nbits w = some i := by
  rw [decodeTableWord, h]

theorem decodeTableWord_of_rejected {nbits w : Nat} {why : Reject} (h : decodeBits nbits w = .rejected why) :
    decodeTableWord nbits w = none := by
  rw [decodeTableWord, h]

theorem decodeTableWord_toNat (w : Word) : decodeTableWord 32 w.toNat = some (operandsOf (classify w) w) :=
  decodeTableWord_of_instr ((decodeBits_toNat w).trans (decode_eq_instr.2 ⟨accepts_classify w, rfl⟩))

/-! ### A placed word -/

theorem withFetchWord_eq_presentNext {nbits w : Nat} {i : Instr} (s : State) (h : decodeTableWord nbits w = some i) :
    s.withFetchWord nbits w = presentNext i s := by
  rw [State.withFetchWord, h]

theorem step_presentNext (i : Instr) (s : State) : step (presentNext i s) = exec i s := rfl

/-! ### The obligations -/

/-- Settles O41: an encoded word shows its row's fixed bits, and its fields hold the operands whole. -/
theorem decodeOfEncodeIsTheInstruction : Obligations.DecodeOfEncodeIsTheInstruction :=
  fun i hi => decode_eq_instr.2 ⟨accepts_encode i, operandsOf_encode hi⟩

/-- Settles O39: the packer's functions are the encoder's, whose words are those the row accepts. -/
theorem rowsDescribeTheProducedWords : Obligations.RowsDescribeTheProducedWords := by
  intro w
  have hall : Op.accepts .encode w = true := Laws.RowMatch.accepts_of_mask_zero rfl rfl w
  simp only [pack_eq_encode, packNone_eq_encode, packRead_eq_encode, packWrite_eq_encode, packReadWrite_eq_encode]
  refine ⟨⟨_, _, _, _, encode_operandsOf hall⟩, ⟨?_, fun h => ?_⟩, ⟨?_, fun h => ?_⟩, ⟨?_, fun h => ?_⟩, ⟨?_, fun h => ?_⟩⟩
  · rintro ⟨t, n, rfl⟩
    exact encode_and_mask (.encodeNone t n)
  · exact ⟨_, _, encode_operandsOf (op := .encodeNone) (accepts_iff.2 h)⟩
  · rintro ⟨t, n, z, rfl⟩
    exact encode_and_mask (.encodeRead t n z)
  · exact ⟨_, _, _, encode_operandsOf (op := .encodeRead) (accepts_iff.2 h)⟩
  · rintro ⟨t, n, z, rfl⟩
    exact encode_and_mask (.encodeWrite t n z)
  · exact ⟨_, _, _, encode_operandsOf (op := .encodeWrite) (accepts_iff.2 h)⟩
  · rintro ⟨t, n, z, rfl⟩
    exact encode_and_mask (.encodeReadWrite t n z)
  · exact ⟨_, _, _, encode_operandsOf (op := .encodeReadWrite) (accepts_iff.2 h)⟩

/-- Settles O42: a row reads only words it accepts, and those it reads as `operandsOf`. -/
theorem encodeOfDecodeIsTheWord : Obligations.EncodeOfDecodeIsTheWord := by
  intro op w i h
  obtain ⟨haccepts, rfl⟩ := decode_eq_instr.1 h
  exact ⟨operandsOf_op op w, operandsOf_inRange op w, encode_operandsOf haccepts⟩

/-- Settles O44: a 32-bit word is read by the row `classify` takes, which accepts it. -/
theorem tableDecoderClassifiesEveryWord : Obligations.TableDecoderClassifiesEveryWord :=
  ⟨fun w => ⟨operandsOf (classify w) w, decodeTableWord_toNat w, encode_operandsOf (accepts_classify w),
      (operandsOf_op _ w).trans (classify_eq_ite w)⟩,
    fun _ _ h => decodeTableWord_of_rejected (decodeBits_of_not_word h)⟩

/-- Settles O40: the seven words are fixed, and the decoder is run on each. -/
theorem writtenOutWordsDecode : Obligations.WrittenOutWordsDecode := by
  refine ⟨?_, ?_, ?_, ?_, ?_, ?_, ?_⟩
  all_goals decide

/-- Settles O46: a placed word is the next use in the host's list. -/
theorem stepRunsTheDecodedWord : Obligations.StepRunsTheDecodedWord :=
  fun s _ _ i h => (congrArg step (withFetchWord_eq_presentNext s h)).trans (step_presentNext i s)

end Sys2Proof

/-! ## Proofs about the packer (40_pack.md)

The packed word is known by its value (`pack_toNat`), as the concatenation of its fields (`pack_eq_assemble`), and, below, as
the OR written with the most significant field first. A derived form is ENCODE with tied operands, so the five completions are
one lemma about ENCODE at five words. -/

namespace Sys2Proof.Machine

/-! ### Only the low bits of an operand count (R100, R101) -/

theorem pack_congr {d t n z d' t' n' z' : Nat} (hd : d % 4 = d' % 4) (ht : t % 256 = t' % 256) (hn : n % 256 = n' % 256)
    (hz : z % 16384 = z' % 16384) : pack d t n z = pack d' t' n' z' := by
  apply BitVec.eq_of_toNat_eq
  rw [pack_toNat, pack_toNat, hd, ht, hn, hz]

theorem pack_mod_direction (d t n z : Nat) : pack d t n z = pack (d % 4) t n z :=
  pack_congr (Nat.mod_mod d 4).symm rfl rfl rfl

theorem pack_mod_type_number_size (d t n z : Nat) : pack d t n z = pack d (t % 256) (n % 256) (z % 16384) :=
  pack_congr rfl (Nat.mod_mod t 256).symm (Nat.mod_mod n 256).symm (Nat.mod_mod z 16384).symm

/-- Equal words have equal directions. -/
theorem direction_mod_eq_of_pack_eq {d t n z d' t' n' z' : Nat} (h : pack d t n z = pack d' t' n' z') : d % 4 = d' % 4 := by
  rw [← extractDirection_pack_toNat d t n z, h, extractDirection_pack_toNat]

/-- Equal words have equal sizes. -/
theorem size_mod_eq_of_pack_eq {d t n z d' t' n' z' : Nat} (h : pack d t n z = pack d' t' n' z') :
    z % 16384 = z' % 16384 := by
  rw [← extractSize_pack_toNat d t n z, h, extractSize_pack_toNat]

/-! ### The packed word as an OR of shifted fields -/

theorem placeField_lt_word (v : Nat) {k offset : Nat} (h : k + offset ≤ 32) : placeField v (2 ^ k - 1) offset < 2 ^ 32 :=
  (placeField_lt v k offset).trans_le (Nat.pow_le_pow_right (by decide) h)

/-- No bit of R100's formula is lost in the 32-bit word. -/
theorem or_placeFields_lt (d t n z : Nat) :
    placeField d 3 30 ||| placeField t 255 8 ||| placeField n 255 0 ||| placeField z 16383 16 < 2 ^ 32 := by
  have hd : placeField d 3 30 < 2 ^ 32 := placeField_lt_word d (k := 2) (by decide)
  have ht : placeField t 255 8 < 2 ^ 32 := placeField_lt_word t (k := 8) (by decide)
  have hn : placeField n 255 0 < 2 ^ 32 := placeField_lt_word n (k := 8) (by decide)
  have hz : placeField z 16383 16 < 2 ^ 32 := placeField_lt_word z (k := 14) (by decide)
  exact Nat.or_lt_two_pow (Nat.or_lt_two_pow (Nat.or_lt_two_pow hd ht) hn) hz

theorem or_move_last (a b c e : Nat) : a ||| b ||| c ||| e = a ||| e ||| b ||| c := by ac_rfl

/-- The packed word with its fields in the order of the layout, as R103 to R106 write it. -/
theorem pack_eq_or_high_first (d t n z : Nat) : pack d t n z = BitVec.ofNat 32
    (((d &&& 0x3) <<< 30) ||| ((z &&& 0x3FFF) <<< 16) ||| ((t &&& 0xFF) <<< 8) ||| (n &&& 0xFF)) :=
  congrArg (BitVec.ofNat 32) (or_move_last ..)

theorem packNone_eq_or (t n : Nat) : packNone t n = BitVec.ofNat 32 (((t &&& 0xFF) <<< 8) ||| (n &&& 0xFF)) := by
  rw [packNone, Config.NONE_eq, pack_eq_or_high_first, Nat.zero_and, Nat.zero_and, Nat.zero_shiftLeft, Nat.zero_shiftLeft,
    Nat.zero_or, Nat.zero_or]

/-- A word the encoder gives shows its row's fixed bits. -/
theorem and_mask_of_eq_encode {w : Word} {i : Instr} (h : w = encode i) : w &&& i.op.mask = i.op.pattern := by
  rw [h, encode_and_mask]

theorem packNone_toNat_lt (t n : Nat) : (packNone t n).toNat < 0x10000 := by
  rw [packNone, Config.NONE_eq, pack_toNat]
  omega

/-! ### The packer as wiring (R102) -/

theorem readOut_enc_id_eq_assemble (p : Inputs) :
    readOut .enc_id p = assemble (p.enc_direction.extractLsb' 0 2) (p.enc_size.extractLsb' 0 14)
      (p.enc_type.extractLsb' 0 8) (p.enc_number.extractLsb' 0 8) :=
  pack_eq_assemble _ _ _ _

/-! ### Completion (R209) -/

theorem exec_next (i : Instr) (s : State) : ∃ u, exec i s = .next u := by
  obtain ⟨u, hu, -⟩ := exec_next_resultOf i s
  exact ⟨u, hu⟩

/-- ENCODE's next state, whole: the operands on the packer's ports and the packed word `w`, however written, recorded. -/
theorem exec_encode_of_pack_eq {d t n z : Nat} {w : Word} (h : pack d t n z = w) (s : State) :
    exec (.encode d t n z) s = .next
      { s with
        inputs := { enc_direction := BitVec.ofNat 32 d, enc_type := BitVec.ofNat 32 t, enc_number := BitVec.ofNat 32 n,
                    enc_size := BitVec.ofNat 32 z, dec_id := s.inputs.dec_id }
        observed := s.observed ++ [⟨.enc_id, w⟩] } := by
  have hobs := usePacker_observed d t n z s
  rw [h] at hobs
  rw [← hobs]
  rfl

theorem exec_encodeNone (t n : Nat) (s : State) : exec (.encodeNone t n) s = exec (.encode 0 t n 0) s := rfl

theorem exec_encodeRead (t n z : Nat) (s : State) : exec (.encodeRead t n z) s = exec (.encode 2 t n z) s := rfl

theorem exec_encodeWrite (t n z : Nat) (s : State) : exec (.encodeWrite t n z) s = exec (.encode 1 t n z) s := rfl

theorem exec_encodeReadWrite (t n z : Nat) (s : State) : exec (.encodeReadWrite t n z) s = exec (.encode 3 t n z) s := rfl

/-! ### The obligations -/

/-- Settles O37: each derived form's arm uses the packer with the tied operands. -/
theorem derivedFormsAreEncodeWithTiedOperands : Obligations.DerivedFormsAreEncodeWithTiedOperands := fun t n z s =>
  ⟨exec_encodeNone t n s, exec_encodeRead t n z s, exec_encodeWrite t n z s, exec_encodeReadWrite t n z s⟩

/-- Settles O3: the model's `pack` is R100's formula, which fits in 32 bits and sees its operands modulo the field sizes. -/
theorem encodeCompletesWithThePackedWord : Obligations.EncodeCompletesWithThePackedWord := by
  refine ⟨fun d t n z s => ⟨exec_encode_of_pack_eq rfl s, rfl, or_placeFields_lt d t n z, ?truncated⟩, ?corners⟩
  case truncated => exact (pack_mod_direction d t n z).trans (pack_mod_type_number_size _ t n z)
  case corners => decide

/-- Settles O4: ENCODE_NONE is ENCODE with direction and size 0, whose word lies in the row of 16 leading zeros. -/
theorem encodeNoneCompletes : Obligations.EncodeNoneCompletes := by
  refine ⟨fun t n s => ⟨?completes, rfl, packNone_eq_or t n, ?fixedBits, packNone_toNat_lt t n, ?truncated⟩, ?corners⟩
  case completes => exact (exec_encodeNone t n s).trans (exec_encode_of_pack_eq (packNone_eq_or t n) s)
  case fixedBits => exact and_mask_of_eq_encode (packNone_eq_encode t n)
  case truncated => exact pack_mod_type_number_size Config.NONE t n 0
  case corners => decide

/-- Settles O5: ENCODE_READ is ENCODE with direction 2, whose word shows the row's leading bits 10. -/
theorem encodeReadCompletes : Obligations.EncodeReadCompletes := by
  refine ⟨fun t n z s => ⟨?completes, rfl, pack_eq_or_high_first 2 t n z, ?fixedBits, ?truncated, ?wraps⟩, ?corners⟩
  case completes => exact (exec_encodeRead t n z s).trans (exec_encode_of_pack_eq (pack_eq_or_high_first 2 t n z) s)
  case fixedBits => exact and_mask_of_eq_encode (packRead_eq_encode t n z)
  case truncated => exact pack_mod_type_number_size Config.READ t n z
  case wraps => exact pack_congr rfl rfl rfl (Nat.mod_self 16384)
  case corners => decide

/-- Settles O6: ENCODE_WRITE is ENCODE with direction 1, whose word shows the row's leading bits 01. -/
theorem encodeWriteCompletes : Obligations.EncodeWriteCompletes := by
  refine ⟨fun t n z s => ⟨?completes, rfl, pack_eq_or_high_first 1 t n z, ?fixedBits, ?truncated⟩, ?corners⟩
  case completes => exact (exec_encodeWrite t n z s).trans (exec_encode_of_pack_eq (pack_eq_or_high_first 1 t n z) s)
  case fixedBits => exact and_mask_of_eq_encode (packWrite_eq_encode t n z)
  case truncated => exact pack_mod_type_number_size Config.WRITE t n z
  case corners => decide

/-- Settles O7: ENCODE_READ_WRITE is ENCODE with direction 3, whose word shows the row's leading bits 11. -/
theorem encodeReadWriteCompletes : Obligations.EncodeReadWriteCompletes := by
  refine ⟨fun t n z s => ⟨?completes, rfl, pack_eq_or_high_first 3 t n z, ?fixedBits, ?truncated⟩, ?corners⟩
  case completes => exact (exec_encodeReadWrite t n z s).trans (exec_encode_of_pack_eq (pack_eq_or_high_first 3 t n z) s)
  case fixedBits => exact and_mask_of_eq_encode (packReadWrite_eq_encode t n z)
  case truncated => exact pack_mod_type_number_size (Config.READ ||| Config.WRITE) t n z
  case corners => decide

/-- Settles O15: the output is assembled from the low bits of the ports, and its slices are the parts. -/
theorem packerOutputIsWiring : Obligations.PackerOutputIsWiring := by
  refine ⟨fun p => ?_, pack_eq_assemble⟩
  rw [readOut_enc_id_eq_assemble]
  exact ⟨fieldDirection_assemble .., fieldSize_assemble .., fieldType_assemble .., fieldNumber_assemble ..⟩

/-- Settles O35: the packer sees the direction modulo 4, and the extractor gives READ | WRITE back with both bits set. -/
theorem directionOperandIsTruncatedToTwoBits : Obligations.DirectionOperandIsTruncatedToTwoBits := by
  refine ⟨pack_mod_direction, fun t n z => ⟨?five, ?six, ?seven, rfl⟩, fun t n z => ?bothBits⟩
  case five => exact pack_mod_direction 5 t n z
  case six => exact pack_mod_direction 6 t n z
  case seven => exact pack_mod_direction 7 t n z
  case bothBits =>
    rw [extractDirection_pack_toNat]
    decide

/-- Settles O38: a derived form's word has size 0 (ENCODE_NONE) or a direction other than NONE. -/
theorem derivedFormsDoNotCoverEveryWord : Obligations.DerivedFormsDoNotCoverEveryWord := by
  refine ⟨fun d t n z hd hz t' n' z' => ?_, fun t n z s => exec_next _ s,
    fun t n s => ⟨exec_next _ s, exec_next _ s, exec_next _ s⟩⟩
  have hdir {d' : Nat} (hd' : d' % 4 ≠ 0) : pack d t n z ≠ pack d' t' n' z' :=
    fun h => hd' ((direction_mod_eq_of_pack_eq h).symm.trans hd)
  exact ⟨fun h => hz (size_mod_eq_of_pack_eq h), hdir (by decide), hdir (by decide), hdir (by decide)⟩

/-- Settles O43: each packer operation's function is the encoder's; the extractors are excluded by their unit. -/
theorem encoderAgreesWithThePacker : Obligations.EncoderAgreesWithThePacker := by
  intro i hi
  cases i with
  | encode d t n z => exact ⟨pack_eq_encode d t n z, rfl⟩
  | encodeNone t n => exact ⟨packNone_eq_encode t n, rfl⟩
  | encodeRead t n z => exact ⟨packRead_eq_encode t n z, rfl⟩
  | encodeWrite t n z => exact ⟨packWrite_eq_encode t n z, rfl⟩
  | encodeReadWrite t n z => exact ⟨packReadWrite_eq_encode t n z, rfl⟩
  | decodeDirection id | decodeType id | decodeNumber id | decodeSize id => cases hi

end Sys2Proof.Machine

/-! ## Proofs about the extractors, and the invariant of every run (41_extract.md)

An extractor's result is its field of the word, zero-extended (`takeField_eq_setWidth`), and every claim about the results is a
claim about a zero-extended field. Every record a step makes is a read of the ports it ends in, so the invariant is kept because
what any port carries lies in its range. -/

namespace Sys2Proof

/-! ### The direction's name (R75, R128) -/

/-- The bits of a direction's name, by the table of R75. -/
def DirectionName.bits : DirectionName → BitVec 2
  | .none => 0b00#2
  | .write => 0b01#2
  | .read => 0b10#2
  | .readWrite => 0b11#2

theorem directionName_eq_iff (w : Word) (name : DirectionName) : directionName w = name ↔ fieldDirection w = name.bits := by
  unfold directionName
  generalize fieldDirection w = d
  revert d
  cases name <;> decide

theorem fieldDirection_getLsbD (w : Word) {i : Nat} (hi : i < 2) : (fieldDirection w).getLsbD i = w.getLsbD (30 + i) := by
  simp [fieldDirection, hi]

/-- A direction is told by the word's two top bits in place. -/
theorem directionName_eq_iff_and (w : Word) (name : DirectionName) :
    directionName w = name ↔ w &&& 0xC0000000#32 = name.bits ++ 0#30 :=
  (directionName_eq_iff w name).trans (and_directionBits_eq_iff w name.bits).symm

end Sys2Proof

namespace Sys2Proof.Machine

/-! ### An extracted field is a slice of the word, zero-extended (R79, R127) -/

theorem takeField_eq_setWidth (id : Word) (offset k : Nat) (hk : k ≤ 32) :
    takeField id offset (2 ^ k - 1) = (id.extractLsb' offset k).setWidth 32 := by
  apply BitVec.eq_of_toNat_eq
  rw [takeField_toNat id offset k hk, BitVec.toNat_setWidth_of_le hk, BitVec.extractLsb'_toNat, Nat.shiftRight_eq_div_pow]

theorem extractDirection_eq_setWidth (id : Word) : extractDirection id = (fieldDirection id).setWidth 32 :=
  takeField_eq_setWidth id 30 2 (by decide)

theorem extractType_eq_setWidth (id : Word) : extractType id = (fieldType id).setWidth 32 :=
  takeField_eq_setWidth id 8 8 (by decide)

theorem extractNumber_eq_setWidth (id : Word) : extractNumber id = (fieldNumber id).setWidth 32 :=
  takeField_eq_setWidth id 0 8 (by decide)

theorem extractSize_eq_setWidth (id : Word) : extractSize id = (fieldSize id).setWidth 32 :=
  takeField_eq_setWidth id 16 14 (by decide)

theorem extractLsb'_low_setWidth {k m : Nat} (v : BitVec k) (hk : k ≤ m) : (v.setWidth m).extractLsb' 0 k = v := by
  rw [BitVec.extractLsb'_setWidth_of_le (by omega), BitVec.extractLsb'_eq_self]

/-- The bits above a zero-extended field are 0. -/
theorem extractLsb'_high_setWidth {k m len : Nat} (v : BitVec k) (hk : k ≤ m) : (v.setWidth m).extractLsb' k len = 0 := by
  apply BitVec.eq_of_toNat_eq
  simp [BitVec.extractLsb'_toNat, BitVec.toNat_setWidth_of_le hk, Nat.shiftRight_eq_div_pow, Nat.div_eq_of_lt v.isLt]

/-! ### Ranges of the results (R125) -/

theorem extractDirection_toNat_le (id : Word) : (extractDirection id).toNat ≤ 3 := by
  rw [extractDirection_toNat]
  omega

theorem extractType_toNat_le (id : Word) : (extractType id).toNat ≤ 255 := by
  rw [extractType_toNat]
  omega

theorem extractNumber_toNat_le (id : Word) : (extractNumber id).toNat ≤ 255 := by
  rw [extractNumber_toNat]
  omega

theorem extractSize_toNat_le (id : Word) : (extractSize id).toNat ≤ 16383 := by
  rw [extractSize_toNat]
  omega

/-- Whatever the input ports carry, an output lies in its port's range. -/
theorem readOut_toNat_le (port : OutPort) (p : Inputs) : (readOut port p).toNat ≤ maxValue port := by
  cases port with
  | enc_id => exact Nat.le_of_lt_succ (readOut .enc_id p).isLt
  | dec_direction => exact extractDirection_toNat_le p.dec_id
  | dec_type => exact extractType_toNat_le p.dec_id
  | dec_number => exact extractNumber_toNat_le p.dec_id
  | dec_size => exact extractSize_toNat_le p.dec_id

/-- A port as narrow as the field carries the same number. -/
theorem toNat_setWidth_of_le_mask {w : Word} {k : Nat} (h : w.toNat ≤ 2 ^ k - 1) : (w.setWidth k).toNat = w.toNat := by
  rw [BitVec.toNat_setWidth, Nat.mod_eq_of_lt (Nat.lt_of_le_pred (Nat.two_pow_pos k) h)]

theorem and_highMask_eq_zero {w : Word} {k : Nat} (hk : k ≤ 32) (h : w.toNat ≤ 2 ^ k - 1) :
    w &&& BitVec.ofNat 32 ((2 ^ (32 - k) - 1) <<< k) = 0 := by
  have hlt : w.toNat < 2 ^ k := Nat.lt_of_le_pred (Nat.two_pow_pos k) h
  apply BitVec.eq_of_toNat_eq
  rw [inPlace_toNat w k (32 - k) (by omega), Nat.div_eq_of_lt hlt, Nat.zero_mod, Nat.zero_mul]
  rfl

/-! ### The direction result as a two-bit mask (R128) -/

theorem hasWrite_toNat (d : BitVec 2) : hasWrite d.toNat = d.getLsbD 0 := by
  revert d
  decide

theorem hasRead_toNat (d : BitVec 2) : hasRead d.toNat = d.getLsbD 1 := by
  revert d
  decide

theorem extractDirection_toNat_eq_field (w : Word) : (extractDirection w).toNat = (fieldDirection w).toNat := by
  rw [extractDirection_eq_setWidth, BitVec.toNat_setWidth_of_le (by decide)]

/-- A direction is told by the direction result. -/
theorem directionName_eq_iff_extractDirection (w : Word) (name : DirectionName) :
    directionName w = name ↔ extractDirection w = name.bits.setWidth 32 := by
  rw [directionName_eq_iff, BitVec.toNat_eq, BitVec.toNat_eq, extractDirection_toNat_eq_field,
    BitVec.toNat_setWidth_of_le (by decide)]

/-! ### A use of an extractor (R124, R209) -/

/-- The next state of such a use, whole, with the port's value `w` however it is written. -/
theorem useExtractor_of_readOut_eq {port : OutPort} {id : Word} {s : State} {w : Word}
    (h : readOut port (driveIdentifier id s.inputs) = w) :
    useExtractor port id s =
      { s with
        inputs := { s.inputs with dec_id := id }
        idSource := .host
        observed := s.observed ++ [{ port := port, value := w }] } := by
  rw [← h]
  rfl

theorem useExtractor_ports (port : OutPort) (id : Word) (s : State) :
    (useExtractor port id s).ports = driveIdentifier id s.inputs := rfl

/-! ### What a step records -/

theorem exec_records_ports {i : Instr} {s t : State} (h : exec i s = .next t) :
    ∃ read : List OutPort, t.observed = s.observed ++ read.map (fun port => observe port t.ports) := by
  obtain ⟨dir, type, num, size, -, hexec⟩ | ⟨port, id, -, -, hexec⟩ := exec_cases i
  · obtain rfl : usePacker dir type num size s = t := Host.Outcome.next.inj ((hexec s).symm.trans h)
    exact ⟨[.enc_id], rfl⟩
  · obtain rfl : useExtractor port id s = t := Host.Outcome.next.inj ((hexec s).symm.trans h)
    exact ⟨[port], rfl⟩

/-- Every record a step makes is a read of an output in the state it ends in (R202, R205). -/
theorem step_records_ports {s t : State} (h : step s = .next t) :
    ∃ read : List OutPort, t.observed = s.observed ++ read.map (fun port => observe port t.ports) := by
  obtain ⟨-, rfl⟩ | ⟨i, rest, -, hexec⟩ | ⟨p, src, read, rest, -, rfl⟩ := step_cases h
  · exact ⟨[], (List.append_nil _).symm⟩
  · exact exec_records_ports (s := { s with pending := rest }) hexec
  · exact ⟨read, rfl⟩

/-! ### The invariant -/

/-- A result that some inputs put on its port lies in the port's range, so observability is the whole invariant. -/
theorem inv_of_resultsObservable {s : State} (h : s.ResultsObservable) : s.Inv where
  resultsInRange := fun o ho => by
    obtain ⟨p, hp⟩ := h o ho
    rw [hp]
    exact readOut_toNat_le o.port p
  resultsObservable := h

/-- Reading outputs adds observable results only. -/
theorem resultsObservable_of_observed_append {s t : State} {read : List OutPort} {p : Inputs} (hs : s.ResultsObservable)
    (ht : t.observed = s.observed ++ read.map (fun port => observe port p)) : t.ResultsObservable := by
  intro o ho
  rw [ht] at ho
  obtain hold | hnew := List.mem_append.1 ho
  · exact hs o hold
  · obtain ⟨port, -, rfl⟩ := List.mem_map.1 hnew
    exact ⟨p, rfl⟩

/-! ### The obligations -/

/-- Settles O50: a step adds reads of its ports only, and any read is in range. -/
theorem everyStepKeepsTheInvariant : Obligations.EveryStepKeepsTheInvariant := by
  intro s t hs h
  obtain ⟨read, hobs⟩ := step_records_ports h
  exact inv_of_resultsObservable (resultsObservable_of_observed_append hs.resultsObservable hobs)

/-- Settles O8: the result is bits 31:30 of the word, zero-extended. -/
theorem decodeDirectionCompletes : Obligations.DecodeDirectionCompletes := by
  refine ⟨fun id s => ⟨?completes, rfl, extractDirection_eq_setWidth id, ?value, extractDirection_toNat_le id⟩, ?corners⟩
  case completes => exact congrArg Host.Outcome.next (useExtractor_of_readOut_eq (extractDirection_eq_setWidth id))
  case value =>
    rw [extractDirection_toNat]
    have := id.isLt
    omega
  case corners => decide

/-- Settles O9: the result is bits 15:8 of the word, zero-extended. -/
theorem decodeTypeCompletes : Obligations.DecodeTypeCompletes := by
  refine ⟨fun id s => ⟨?completes, rfl, extractType_eq_setWidth id, extractType_toNat id, extractType_toNat_le id⟩, ?corners⟩
  case completes => exact congrArg Host.Outcome.next (useExtractor_of_readOut_eq (extractType_eq_setWidth id))
  case corners => decide

/-- Settles O10: the result is bits 7:0 of the word, zero-extended; the shift by 0 drops out. -/
theorem decodeNumberCompletes : Obligations.DecodeNumberCompletes := by
  refine ⟨fun id s => ⟨?completes, rfl, ?masked, extractNumber_eq_setWidth id, extractNumber_toNat id,
    extractNumber_toNat_le id⟩, ?corners⟩
  case completes => exact congrArg Host.Outcome.next (useExtractor_of_readOut_eq (extractNumber_eq_setWidth id))
  case masked => exact congrArg (· &&& 0xFF#32) (BitVec.ushiftRight_zero id)
  case corners => decide

/-- Settles O11: the result is bits 29:16 of the word, zero-extended. -/
theorem decodeSizeCompletes : Obligations.DecodeSizeCompletes := by
  refine ⟨fun id s => ⟨?completes, rfl, extractSize_eq_setWidth id, extractSize_toNat id, extractSize_toNat_le id⟩, ?corners⟩
  case completes => exact congrArg Host.Outcome.next (useExtractor_of_readOut_eq (extractSize_eq_setWidth id))
  case corners => decide

/-- Settles O16: each output is its field of `dec_id`, zero-extended. -/
theorem extractorOutputsAreWiring : Obligations.ExtractorOutputsAreWiring := by
  intro p
  have hdir : readOut .dec_direction p = _ := extractDirection_eq_setWidth p.dec_id
  have htype : readOut .dec_type p = _ := extractType_eq_setWidth p.dec_id
  have hnum : readOut .dec_number p = _ := extractNumber_eq_setWidth p.dec_id
  have hsize : readOut .dec_size p = _ := extractSize_eq_setWidth p.dec_id
  rw [hdir, htype, hnum, hsize]
  exact ⟨extractLsb'_low_setWidth _ (by decide), extractLsb'_high_setWidth _ (by decide),
    extractLsb'_low_setWidth _ (by decide), extractLsb'_high_setWidth _ (by decide),
    extractLsb'_low_setWidth _ (by decide), extractLsb'_high_setWidth _ (by decide),
    extractLsb'_low_setWidth _ (by decide), extractLsb'_high_setWidth _ (by decide)⟩

/-- Settles O18: the four ranges give the zero bits above the fields and the narrow ports. -/
theorem extractorResultsStayInRange : Obligations.ExtractorResultsStayInRange := by
  intro id
  have hdir := extractDirection_toNat_le id
  have htype := extractType_toNat_le id
  have hnum := extractNumber_toNat_le id
  have hsize := extractSize_toNat_le id
  refine ⟨hdir, htype, hnum, hsize, ?_, ?_, ?_, ?_, ?_, ?_, ?_, ?_⟩
  · exact and_highMask_eq_zero (k := 2) (by decide) hdir
  · exact and_highMask_eq_zero (k := 8) (by decide) htype
  · exact and_highMask_eq_zero (k := 8) (by decide) hnum
  · exact and_highMask_eq_zero (k := 14) (by decide) hsize
  · exact toNat_setWidth_of_le_mask hdir
  · exact toNat_setWidth_of_le_mask htype
  · exact toNat_setWidth_of_le_mask hnum
  · exact toNat_setWidth_of_le_mask hsize

/-- Settles O19: whichever extractor is used, the use drives the shared `dec_id`, and all four outputs read it. -/
theorem allExtractorsSeeTheSameWord : Obligations.AllExtractorsSeeTheSameWord := by
  intro i id s t hi h
  obtain ⟨port, hexec⟩ : ∃ port, exec i s = .next (useExtractor port id s) := by
    obtain rfl | rfl | rfl | rfl := hi
    exacts [⟨.dec_direction, rfl⟩, ⟨.dec_type, rfl⟩, ⟨.dec_number, rfl⟩, ⟨.dec_size, rfl⟩]
  obtain rfl := Host.Outcome.next.inj (hexec.symm.trans h)
  rw [useExtractor_ports]
  exact ⟨extractDirection_eq_setWidth id, extractType_eq_setWidth id, extractNumber_eq_setWidth id, extractSize_eq_setWidth id⟩

/-- Settles O36: the result is the direction field, whose bits 0 and 1 are word bits 30 and 31 and whose value names it. -/
theorem directionResultIsATwoBitMask : Obligations.DirectionResultIsATwoBitMask := by
  intro w
  have hinPlace := directionName_eq_iff_and w
  have hresult := directionName_eq_iff_extractDirection w
  refine ⟨?write, ?read, hinPlace .none, hinPlace .write, hinPlace .read, hinPlace .readWrite, hresult .none, hresult .write,
    hresult .read, hresult .readWrite⟩
  case write => rw [extractDirection_toNat_eq_field, hasWrite_toNat, fieldDirection_getLsbD w (by decide)]
  case read => rw [extractDirection_toNat_eq_field, hasRead_toNat, fieldDirection_getLsbD w (by decide)]

end Sys2Proof.Machine

/-! ## Proofs about the codec's laws: the packer and the extractors together (42_codec_laws.md)

Three views of a word carry the laws. As a number it is the sum of its fields in place, which is what `pack` computes, so packing
a word's fields gives it back. Under an in-place mask it agrees with another word exactly when the field's extractor does. And
the four terms of the packer share no bit, so OR, XOR and addition join them alike. -/

namespace Sys2Proof.Machine

/-! ### The operands modulo the size of their fields (R142, R155) -/

/-- Masking an operand with `k` ones, or not, keeps its low `k` bits. -/
theorem premasked_mod (masked : Bool) (v k : Nat) : (if masked then v &&& (2 ^ k - 1) else v) % 2 ^ k = v % 2 ^ k := by
  cases masked with
  | false => rfl
  | true => exact (congrArg (· % 2 ^ k) (Nat.and_two_pow_sub_one_eq_mod v k)).trans (Nat.mod_mod v (2 ^ k))

/-- A port of `k` bits keeps the low `j` bits of an operand when it has that many. -/
theorem toNat_ofNat_mod_two_pow {j k : Nat} (h : j ≤ k) (v : Nat) : (BitVec.ofNat k v).toNat % 2 ^ j = v % 2 ^ j := by
  rw [BitVec.toNat_ofNat, Nat.mod_mod_of_dvd v (Nat.pow_dvd_pow 2 h)]

/-- Two packed words are equal exactly when their operands agree modulo the fields' sizes. -/
theorem pack_eq_pack_iff {d t n z d' t' n' z' : Nat} : pack d t n z = pack d' t' n' z' ↔
    d % 4 = d' % 4 ∧ t % 256 = t' % 256 ∧ n % 256 = n' % 256 ∧ z % 16384 = z' % 16384 := by
  refine ⟨fun h => ⟨direction_mod_eq_of_pack_eq h, ?type, ?number, size_mod_eq_of_pack_eq h⟩,
    fun ⟨hd, ht, hn, hz⟩ => pack_congr hd ht hn hz⟩
  case type => rw [← extractType_pack_toNat d t n z, h, extractType_pack_toNat]
  case number => rw [← extractNumber_pack_toNat d t n z, h, extractNumber_pack_toNat]

/-! ### The extractors on a packed word, as words (R143, R144) -/

theorem extractDirection_pack (d t n z : Nat) : extractDirection (pack d t n z) = BitVec.ofNat 32 (d % 4) := by
  rw [← extractDirection_pack_toNat d t n z, BitVec.ofNat_toNat, BitVec.setWidth_eq]

theorem extractType_pack (d t n z : Nat) : extractType (pack d t n z) = BitVec.ofNat 32 (t % 256) := by
  rw [← extractType_pack_toNat d t n z, BitVec.ofNat_toNat, BitVec.setWidth_eq]

theorem extractNumber_pack (d t n z : Nat) : extractNumber (pack d t n z) = BitVec.ofNat 32 (n % 256) := by
  rw [← extractNumber_pack_toNat d t n z, BitVec.ofNat_toNat, BitVec.setWidth_eq]

theorem extractSize_pack (d t n z : Nat) : extractSize (pack d t n z) = BitVec.ofNat 32 (z % 16384) := by
  rw [← extractSize_pack_toNat d t n z, BitVec.ofNat_toNat, BitVec.setWidth_eq]

theorem extractType_pack_toNat_eq_and (d t n z : Nat) : (extractType (pack d t n z)).toNat = t &&& 0xFF :=
  (extractType_pack_toNat d t n z).trans (Nat.and_two_pow_sub_one_eq_mod t 8).symm

theorem extractNumber_pack_toNat_eq_and (d t n z : Nat) : (extractNumber (pack d t n z)).toNat = n &&& 0xFF :=
  (extractNumber_pack_toNat d t n z).trans (Nat.and_two_pow_sub_one_eq_mod n 8).symm

theorem extractSize_pack_toNat_eq_and (d t n z : Nat) : (extractSize (pack d t n z)).toNat = z &&& 0x3FFF :=
  (extractSize_pack_toNat d t n z).trans (Nat.and_two_pow_sub_one_eq_mod z 14).symm

/-! ### A word is the sum of its fields (R146, R152) -/

theorem toNat_eq_sum_of_fields (w : Word) :
    w.toNat = (extractDirection w).toNat * 2 ^ 30 + (extractSize w).toNat * 2 ^ 16 + (extractType w).toNat * 2 ^ 8
      + (extractNumber w).toNat := by
  rw [extractDirection_toNat, extractSize_toNat, extractType_toNat, extractNumber_toNat]
  have := w.isLt
  omega

/-- ENCODE truncates none of a word's own fields (R150), so it gives the word back. -/
theorem pack_extracted (w : Word) :
    pack (extractDirection w).toNat (extractType w).toNat (extractNumber w).toNat (extractSize w).toNat = w := by
  apply BitVec.eq_of_toNat_eq
  rw [pack_toNat, toNat_eq_sum_of_fields w]
  have := extractDirection_toNat_le w
  have := extractType_toNat_le w
  have := extractNumber_toNat_le w
  have := extractSize_toNat_le w
  omega

/-! ### Words under an in-place mask (R29, R145, R151) -/

/-- Two words agree under a field's in-place mask exactly when the field extracted from them is the same. -/
theorem and_inPlace_eq_iff_takeField_eq (w w' : Word) {offset k : Nat} (hk : k + offset ≤ 32) :
    w &&& BitVec.ofNat 32 ((2 ^ k - 1) <<< offset) = w' &&& BitVec.ofNat 32 ((2 ^ k - 1) <<< offset)
      ↔ takeField w offset (2 ^ k - 1) = takeField w' offset (2 ^ k - 1) := by
  rw [BitVec.toNat_eq, BitVec.toNat_eq, inPlace_toNat w offset k hk, inPlace_toNat w' offset k hk,
    takeField_toNat w offset k (by omega), takeField_toNat w' offset k (by omega),
    Nat.mul_left_inj (Nat.two_pow_pos offset).ne']

theorem and_directionField_eq_iff (w w' : Word) :
    w &&& 0xC0000000#32 = w' &&& 0xC0000000#32 ↔ extractDirection w = extractDirection w' :=
  and_inPlace_eq_iff_takeField_eq w w' (offset := 30) (k := 2) (by decide)

theorem and_sizeField_eq_iff (w w' : Word) :
    w &&& 0x3FFF0000#32 = w' &&& 0x3FFF0000#32 ↔ extractSize w = extractSize w' :=
  and_inPlace_eq_iff_takeField_eq w w' (offset := 16) (k := 14) (by decide)

theorem and_typeField_eq_iff (w w' : Word) :
    w &&& 0x0000FF00#32 = w' &&& 0x0000FF00#32 ↔ extractType w = extractType w' :=
  and_inPlace_eq_iff_takeField_eq w w' (offset := 8) (k := 8) (by decide)

theorem and_numberField_eq_iff (w w' : Word) :
    w &&& 0x000000FF#32 = w' &&& 0x000000FF#32 ↔ extractNumber w = extractNumber w' :=
  and_inPlace_eq_iff_takeField_eq w w' (offset := 0) (k := 8) (by decide)

/-- A function that sees a word only under the mask `m` is 0 exactly on the words that are 0 there, if it is 0 on 0. -/
theorem eq_zero_iff_of_and_eq_iff {f : Word → Word} {m : Word} (h : ∀ w w', w &&& m = w' &&& m ↔ f w = f w')
    (hzero : f 0 = 0) (w : Word) : f w = 0 ↔ w &&& m = 0 := by
  have hmasked : 0 &&& m = 0 := BitVec.zero_and
  calc f w = 0 ↔ f w = f 0 := by rw [hzero]
    _ ↔ w &&& m = 0 &&& m := (h w 0).symm
    _ ↔ w &&& m = 0 := by rw [hmasked]

/-- Such a function takes the same value on the masked word. -/
theorem eq_on_masked_of_and_eq_iff {f : Word → Word} {m : Word} (h : ∀ w w', w &&& m = w' &&& m ↔ f w = f w') (w : Word) :
    f w = f (w &&& m) :=
  (h w (w &&& m)).1 (by rw [BitVec.and_assoc, BitVec.and_self])

/-- Words that agree under three masks differ nowhere under their OR. -/
theorem xor_and_eq_zero_of_agree {a b m₁ m₂ m₃ m : Word} (hm : m = m₁ ||| m₂ ||| m₃) (h₁ : a &&& m₁ = b &&& m₁)
    (h₂ : a &&& m₂ = b &&& m₂) (h₃ : a &&& m₃ = b &&& m₃) : (a ^^^ b) &&& m = 0 := by
  have hagree : a &&& m = b &&& m := by
    rw [hm, BitVec.and_or_distrib_left, BitVec.and_or_distrib_left, h₁, h₂, h₃, BitVec.and_or_distrib_left,
      BitVec.and_or_distrib_left]
  apply BitVec.eq_of_toNat_eq
  rw [BitVec.toNat_and, BitVec.toNat_xor, Nat.and_xor_distrib_right, ← BitVec.toNat_and, ← BitVec.toNat_and, hagree,
    Nat.xor_self]
  rfl

/-- The in-place masks leave no bit of the word out. -/
theorem inPlaceMasks_or : 0xC0000000#32 ||| 0x3FFF0000#32 ||| 0x0000FF00#32 ||| 0x000000FF#32 = BitVec.allOnes 32 := by decide

/-- A field extracted and shifted back stands where it stood, all other bits 0. -/
theorem takeField_shiftLeft (w : Word) {offset k : Nat} (hk : k + offset ≤ 32) :
    takeField w offset (2 ^ k - 1) <<< offset = w &&& BitVec.ofNat 32 ((2 ^ k - 1) <<< offset) := by
  apply BitVec.eq_of_toNat_eq
  rw [BitVec.toNat_shiftLeft, takeField_toNat w offset k (by omega), Nat.shiftLeft_eq, ← inPlace_toNat w offset k hk,
    Nat.mod_eq_of_lt (BitVec.isLt _)]

theorem eq_or_of_fields (w : Word) :
    w = (extractDirection w <<< 30) ||| (extractSize w <<< 16) ||| (extractType w <<< 8) ||| extractNumber w := by
  have hd : extractDirection w <<< 30 = w &&& 0xC0000000#32 := takeField_shiftLeft w (k := 2) (by decide)
  have hz : extractSize w <<< 16 = w &&& 0x3FFF0000#32 := takeField_shiftLeft w (k := 14) (by decide)
  have ht : extractType w <<< 8 = w &&& 0x0000FF00#32 := takeField_shiftLeft w (k := 8) (by decide)
  have hn : extractNumber w = w &&& 0x000000FF#32 := congrArg (· &&& 0xFF#32) (BitVec.ushiftRight_zero w)
  rw [hd, hz, ht, hn, ← BitVec.and_or_distrib_left, ← BitVec.and_or_distrib_left, ← BitVec.and_or_distrib_left,
    inPlaceMasks_or, BitVec.and_allOnes]

/-! ### OR, XOR and addition of terms that share no bit (R148) -/

/-- XOR of a value below `2 ^ k` and one shifted left by `k` is their OR. -/
theorem shiftLeft_xor_eq_or_of_lt {b k : Nat} (h : b < 2 ^ k) (a : Nat) : a <<< k ^^^ b = a <<< k ||| b := by
  apply Nat.eq_of_testBit_eq
  intro i
  rw [Nat.testBit_xor, Nat.testBit_or, Nat.testBit_shiftLeft]
  by_cases hi : k ≤ i
  · have hb : b.testBit i = false := Nat.testBit_lt_two_pow (h.trans_le (Nat.pow_le_pow_right (by decide) hi))
    rw [hb, Bool.xor_false, Bool.or_false]
  · simp [hi]

section FieldTerms

variable {z t n : Nat} (hz : z < 2 ^ 14) (ht : t < 2 ^ 8) (hn : n < 2 ^ 8) (d : Nat)

include hz ht hn

theorem or_of_terms_eq_sum : d <<< 30 ||| z <<< 16 ||| t <<< 8 ||| n = d <<< 30 + z <<< 16 + t <<< 8 + n := by
  have htn : t <<< 8 ||| n < 2 ^ 16 := Nat.append_lt hn ht
  have hztn : z <<< 16 ||| (t <<< 8 ||| n) < 2 ^ 30 := Nat.append_lt htn hz
  rw [Nat.or_assoc, Nat.or_assoc, ← Nat.shiftLeft_add_eq_or_of_lt hztn, ← Nat.shiftLeft_add_eq_or_of_lt htn,
    ← Nat.shiftLeft_add_eq_or_of_lt hn, ← Nat.add_assoc, ← Nat.add_assoc]

theorem or_of_terms_eq_xor : d <<< 30 ||| z <<< 16 ||| t <<< 8 ||| n = d <<< 30 ^^^ z <<< 16 ^^^ t <<< 8 ^^^ n := by
  have htn : t <<< 8 ||| n < 2 ^ 16 := Nat.append_lt hn ht
  have hztn : z <<< 16 ||| (t <<< 8 ||| n) < 2 ^ 30 := Nat.append_lt htn hz
  rw [Nat.or_assoc, Nat.or_assoc, ← shiftLeft_xor_eq_or_of_lt hztn, ← shiftLeft_xor_eq_or_of_lt htn,
    ← shiftLeft_xor_eq_or_of_lt hn, ← Nat.xor_assoc, ← Nat.xor_assoc]

end FieldTerms

/-- The packed word as a number: no bit of the OR is lost. -/
theorem pack_toNat_eq_or (d t n z : Nat) : (pack d t n z).toNat
    = ((d &&& 0x3) <<< 30) ||| ((z &&& 0x3FFF) <<< 16) ||| ((t &&& 0xFF) <<< 8) ||| (n &&& 0xFF) := by
  rw [pack_eq_or_high_first, BitVec.toNat_ofNat]
  apply Nat.mod_eq_of_lt
  rw [← or_move_last]
  exact or_placeFields_lt d t n z

/-- OR joins terms `x`, `y`, `w` to both sides as to the whole. -/
theorem or_or_or_distrib (a b x y w : Nat) :
    a ||| b ||| x ||| y ||| w = (a ||| x ||| y ||| w) ||| (b ||| x ||| y ||| w) := by ac_rfl

/-- The packer of an OR of directions is the OR of the words. -/
theorem pack_or_direction (d d' t n z : Nat) : pack (d ||| d') t n z = pack d t n z ||| pack d' t n z := by
  rw [pack_eq_or_high_first, pack_eq_or_high_first, pack_eq_or_high_first, ← BitVec.ofNat_or, Nat.and_or_distrib_right,
    Nat.shiftLeft_or_distrib, or_or_or_distrib]

/-! ### Mask-then-shift and shift-then-mask (R149) -/

theorem and_shiftLeft_eq_mod_and {m offset : Nat} (h : m <<< offset < 2 ^ 32) (v : Nat) :
    (v &&& m) <<< offset = ((v <<< offset) % 2 ^ 32) &&& (m <<< offset) := by
  have hlt : (v &&& m) <<< offset < 2 ^ 32 := by
    rw [Nat.shiftLeft_and_distrib]
    exact Nat.and_lt_two_pow _ h
  rw [← Nat.mod_eq_of_lt hlt, Nat.shiftLeft_and_distrib, Nat.and_mod_two_pow, Nat.mod_eq_of_lt h]

/-- A port shifted in 32 bits and masked in place carries its term of the packed word. -/
theorem shiftLeft_and_inPlace_toNat (p : Word) {m offset : Nat} (h : m <<< offset < 2 ^ 32) :
    ((p <<< offset) &&& BitVec.ofNat 32 (m <<< offset)).toNat = (p.toNat &&& m) <<< offset := by
  rw [and_shiftLeft_eq_mod_and h, BitVec.toNat_and, BitVec.toNat_shiftLeft, BitVec.toNat_ofNat, Nat.mod_eq_of_lt h]

theorem readOut_enc_id_eq_or_shifted (p : Inputs) :
    readOut .enc_id p = ((p.enc_direction <<< 30) &&& 0xC0000000#32) ||| ((p.enc_size <<< 16) &&& 0x3FFF0000#32)
      ||| ((p.enc_type <<< 8) &&& 0x0000FF00#32) ||| (p.enc_number &&& 0x000000FF#32) := by
  have hd : ((p.enc_direction <<< 30) &&& 0xC0000000#32).toNat = (p.enc_direction.toNat &&& 0x3) <<< 30 :=
    shiftLeft_and_inPlace_toNat p.enc_direction (m := 0x3) (offset := 30) (by decide)
  have hz : ((p.enc_size <<< 16) &&& 0x3FFF0000#32).toNat = (p.enc_size.toNat &&& 0x3FFF) <<< 16 :=
    shiftLeft_and_inPlace_toNat p.enc_size (m := 0x3FFF) (offset := 16) (by decide)
  have ht : ((p.enc_type <<< 8) &&& 0x0000FF00#32).toNat = (p.enc_type.toNat &&& 0xFF) <<< 8 :=
    shiftLeft_and_inPlace_toNat p.enc_type (m := 0xFF) (offset := 8) (by decide)
  apply BitVec.eq_of_toNat_eq
  rw [BitVec.toNat_or, BitVec.toNat_or, BitVec.toNat_or, hd, hz, ht, BitVec.toNat_and]
  exact pack_toNat_eq_or _ _ _ _

/-! ### The order of words (R153) -/

/-- Words order by direction, then size, then type, then number: each field outweighs all below it. -/
theorem lt_iff_fields_lt (w w' : Word) :
    w < w' ↔ extractDirection w < extractDirection w'
      ∨ (extractDirection w = extractDirection w' ∧ (extractSize w < extractSize w'
        ∨ (extractSize w = extractSize w' ∧ (extractType w < extractType w'
          ∨ (extractType w = extractType w' ∧ extractNumber w < extractNumber w'))))) := by
  simp only [BitVec.lt_def, BitVec.toNat_eq]
  rw [toNat_eq_sum_of_fields w, toNat_eq_sum_of_fields w']
  have := extractSize_toNat_le w
  have := extractSize_toNat_le w'
  have := extractType_toNat_le w
  have := extractType_toNat_le w'
  have := extractNumber_toNat_le w
  have := extractNumber_toNat_le w'
  omega

/-! ### The obligations -/

/-- Settles O22: the extractors give the operands modulo the fields' sizes, which keeps those in range. -/
theorem roundTripRecoversInRangeOperands : Obligations.RoundTripRecoversInRangeOperands := by
  intro d t n z hd ht hn hz
  rw [extractDirection_pack_toNat, extractType_pack_toNat, extractNumber_pack_toNat, extractSize_pack_toNat]
  exact ⟨Nat.mod_eq_of_lt (Nat.lt_succ_of_le hd), Nat.mod_eq_of_lt (Nat.lt_succ_of_le ht),
    Nat.mod_eq_of_lt (Nat.lt_succ_of_le hn), Nat.mod_eq_of_lt (Nat.lt_succ_of_le hz)⟩

/-- Settles O27: the extractors recover in-range operands, and packing the extracted fields of a word gives the word; number 256
packs as number 0. -/
theorem encodeIsABijectionInRange : Obligations.EncodeIsABijectionInRange := by
  refine ⟨?injective, fun w => ?surjective, fun d t n z hd ht hn hz => ?inverse, ?notInjective, by decide⟩
  case injective =>
    intro d t n z d' t' n' z' hd ht hn hz hd' ht' hn' hz' h
    obtain ⟨ed, et, en, ez⟩ := pack_eq_pack_iff.1 h
    omega
  case surjective =>
    exact ⟨_, _, _, _,
      ⟨extractDirection_toNat_le w, extractType_toNat_le w, extractNumber_toNat_le w, extractSize_toNat_le w⟩,
      pack_extracted w, rfl, rfl, rfl, rfl⟩
  case inverse =>
    obtain ⟨ed, et, en, ez⟩ := roundTripRecoversInRangeOperands d t n z hd ht hn hz
    rw [ed, et, en, ez]
  case notInjective =>
    exact ⟨0, 0, 256, 0, 0, 0, 0, 0, by decide, pack_congr rfl rfl (Nat.mod_self 256) rfl⟩

/-- Settles O23: a pre-masked operand has the low bits of the operand, and only these are packed. -/
theorem premaskedOperandsPackTheSame : Obligations.PremaskedOperandsPackTheSame := by
  refine ⟨fun d t n z md mt mn mz => ?_, fun d t z => ?_⟩
  · exact pack_congr (premasked_mod md d 2) (premasked_mod mt t 8) (premasked_mod mn n 8) (premasked_mod mz z 14)
  · exact pack_congr rfl rfl (Nat.mod_self 256) rfl

/-- Settles O24: the extractors give the operands modulo the fields' sizes, and a mask of ones is such a modulus. -/
theorem roundTripTruncatesOperands : Obligations.RoundTripTruncatesOperands := by
  intro d t n z
  have hd : d &&& 0x3 = d % 4 := Nat.and_two_pow_sub_one_eq_mod d 2
  exact ⟨(extractDirection_pack_toNat d t n z).trans hd.symm, hd, extractType_pack_toNat_eq_and d t n z,
    Nat.and_two_pow_sub_one_eq_mod t 8, extractNumber_pack_toNat_eq_and d t n z, Nat.and_two_pow_sub_one_eq_mod n 8,
    extractSize_pack_toNat_eq_and d t n z, Nat.and_two_pow_sub_one_eq_mod z 14⟩

/-- Settles O25: the three other extractors see no change, so the words agree under the three other in-place masks. -/
theorem fieldsAreIndependent : Obligations.FieldsAreIndependent := by
  intro d t n z v
  have hdir (t n z t' n' z') : extractDirection (pack d t n z) = extractDirection (pack d t' n' z') :=
    (extractDirection_pack ..).trans (extractDirection_pack ..).symm
  have htype (d n z d' n' z') : extractType (pack d t n z) = extractType (pack d' t n' z') :=
    (extractType_pack ..).trans (extractType_pack ..).symm
  have hnum (d t z d' t' z') : extractNumber (pack d t n z) = extractNumber (pack d' t' n z') :=
    (extractNumber_pack ..).trans (extractNumber_pack ..).symm
  have hsize (d t n d' t' n') : extractSize (pack d t n z) = extractSize (pack d' t' n' z) :=
    (extractSize_pack ..).trans (extractSize_pack ..).symm
  refine ⟨⟨?direction, htype .., hnum .., hsize ..⟩, ⟨?type, hdir .., hnum .., hsize ..⟩,
    ⟨?number, hdir .., htype .., hsize ..⟩, ⟨?size, hdir .., htype .., hnum ..⟩⟩
  case direction =>
    exact xor_and_eq_zero_of_agree (by decide) ((and_sizeField_eq_iff _ _).2 (hsize ..))
      ((and_typeField_eq_iff _ _).2 (htype ..)) ((and_numberField_eq_iff _ _).2 (hnum ..))
  case type =>
    exact xor_and_eq_zero_of_agree (by decide) ((and_directionField_eq_iff _ _).2 (hdir ..))
      ((and_sizeField_eq_iff _ _).2 (hsize ..)) ((and_numberField_eq_iff _ _).2 (hnum ..))
  case number =>
    exact xor_and_eq_zero_of_agree (by decide) ((and_directionField_eq_iff _ _).2 (hdir ..))
      ((and_sizeField_eq_iff _ _).2 (hsize ..)) ((and_typeField_eq_iff _ _).2 (htype ..))
  case size =>
    exact xor_and_eq_zero_of_agree (by decide) ((and_directionField_eq_iff _ _).2 (hdir ..))
      ((and_typeField_eq_iff _ _).2 (htype ..)) ((and_numberField_eq_iff _ _).2 (hnum ..))

/-- Settles O26: the extracted fields make up the word. -/
theorem reencodingIsTheIdentity : Obligations.ReencodingIsTheIdentity := pack_extracted

/-- Settles O28: each masked and shifted operand lies above the bits of those below it. -/
theorem orAddAndXorAgree : Obligations.OrAddAndXorAgree := by
  intro d t n z
  have hz : z &&& 0x3FFF < 2 ^ 14 := Nat.and_lt_two_pow z (by decide)
  have ht : t &&& 0xFF < 2 ^ 8 := Nat.and_lt_two_pow t (by decide)
  have hn : n &&& 0xFF < 2 ^ 8 := Nat.and_lt_two_pow n (by decide)
  have hor := pack_toNat_eq_or d t n z
  exact ⟨hor.trans (or_of_terms_eq_sum hz ht hn _), hor.trans (or_of_terms_eq_xor hz ht hn _), hor⟩

/-- Settles O29: a left shift distributes over AND, and an in-place mask below 2 ^ 32 drops what the word cannot hold. -/
theorem shiftThenMaskPacksTheSame : Obligations.ShiftThenMaskPacksTheSame :=
  ⟨fun v _ _ _ hm => and_shiftLeft_eq_mod_and hm v, fun _ _ _ => Nat.shiftLeft_and_distrib, readOut_enc_id_eq_or_shifted⟩

/-- Settles O30: an extractor tells two words apart exactly when they differ under its in-place mask. -/
theorem extractorSeesOnlyItsField : Obligations.ExtractorSeesOnlyItsField := by
  refine ⟨fun w w' => ⟨(and_directionField_eq_iff w w').1, (and_typeField_eq_iff w w').1, (and_numberField_eq_iff w w').1,
    (and_sizeField_eq_iff w w').1⟩, fun w => ⟨?_, ?_, ?_, ?_, ?_, ?_, ?_, ?_⟩⟩
  · exact eq_zero_iff_of_and_eq_iff and_directionField_eq_iff (by decide) w
  · exact eq_zero_iff_of_and_eq_iff and_typeField_eq_iff (by decide) w
  · exact eq_zero_iff_of_and_eq_iff and_numberField_eq_iff (by decide) w
  · exact eq_zero_iff_of_and_eq_iff and_sizeField_eq_iff (by decide) w
  · exact eq_on_masked_of_and_eq_iff and_directionField_eq_iff w
  · exact eq_on_masked_of_and_eq_iff and_typeField_eq_iff w
  · exact eq_on_masked_of_and_eq_iff and_numberField_eq_iff w
  · exact eq_on_masked_of_and_eq_iff and_sizeField_eq_iff w

/-- Settles O31: a field shifted back is the word under its in-place mask, and the masks cover the word. -/
theorem wordIsTheSumOfItsFields : Obligations.WordIsTheSumOfItsFields := fun w =>
  ⟨eq_or_of_fields w, toNat_eq_sum_of_fields w⟩

/-- Settles O32: a word is its fields in place, so a field that grows in its range makes the word grow. -/
theorem extremesAndOrderOfWords : Obligations.ExtremesAndOrderOfWords := by
  refine ⟨?extremes, fun w => ⟨BitVec.le_def.2 (Nat.zero_le _), BitVec.le_def.2 (Nat.le_of_lt_succ w.isLt)⟩, ?monotone,
    ?beyondTheRange, lt_iff_fields_lt⟩
  case extremes => decide
  case monotone =>
    intro d t n z v
    simp only [BitVec.lt_def, pack_toNat]
    refine ⟨?_, ?_, ?_, ?_⟩ <;> omega
  case beyondTheRange => decide

/-- Settles O33: a derived form packs its tied direction (and size), and READ_WRITE's direction is the OR of the two. -/
theorem derivedFormsDecodeToTheirDirection : Obligations.DerivedFormsDecodeToTheirDirection := by
  intro t n z
  have htypeNumber (d z : Nat) :
      (extractType (pack d t n z)).toNat = t &&& 0xFF ∧ (extractNumber (pack d t n z)).toNat = n &&& 0xFF :=
    ⟨extractType_pack_toNat_eq_and d t n z, extractNumber_pack_toNat_eq_and d t n z⟩
  have hsize (d : Nat) : (extractSize (pack d t n z)).toNat = z &&& 0x3FFF := extractSize_pack_toNat_eq_and d t n z
  refine ⟨extractDirection_pack 0 t n 0, extractSize_pack 0 t n 0, extractDirection_pack 2 t n z, extractDirection_pack 1 t n z,
    extractDirection_pack 3 t n z, ?_, ?_, pack_or_direction Config.READ Config.WRITE t n z⟩
  · simp only [List.forall_mem_cons, List.not_mem_nil, false_imp_iff, implies_true, and_true]
    exact ⟨htypeNumber 0 0, htypeNumber 2 z, htypeNumber 1 z, htypeNumber 3 z⟩
  · simp only [List.forall_mem_cons, List.not_mem_nil, false_imp_iff, implies_true, and_true]
    exact ⟨hsize 2, hsize 1, hsize 3⟩

/-- Settles O34: the packer sees its operands modulo the fields' sizes, which a port of 14 bits or more keeps. -/
theorem encodeDependsOnLowBitsOnly : Obligations.EncodeDependsOnLowBitsOnly := by
  refine ⟨fun d t n z d' t' n' z' => pack_congr, fun k d t n z hk => ?_⟩
  exact pack_congr (toNat_ofNat_mod_two_pow (j := 2) (by omega) d) (toNat_ofNat_mod_two_pow (j := 8) (by omega) t)
    (toNat_ofNat_mod_two_pow (j := 8) (by omega) n) (toNat_ofNat_mod_two_pow hk z)

/-- Settles O2: each mask's value, the six pairs without a common bit, and the cover, by computation on the four constants. -/
theorem inPlaceMasksTileTheWord : Obligations.InPlaceMasksTileTheWord := by
  refine ⟨rfl, rfl, rfl, rfl, ?disjointAndCovering⟩
  decide

end Sys2Proof.Machine

/-! ## Proofs about exceptions: there are none, and the host's liberties (60_exceptions.md)

Of `step` only one equation per kind of act is used: a use, an assignment, the end of the list. As each of them answers `next`,
nothing stops a run; as an assignment's results are reads of its ports, what several units give at one instant is what each
gives alone. -/

namespace Sys2Proof.Machine

/-! ### A step, by the host's next act (R187, R209) -/

theorem fetch_of_pending_cons {s : State} {a : HostAct} {rest : List HostAct} (h : s.pending = a :: rest) :
    fetch s = some (a, { s with pending := rest }) := by
  rw [fetch, h]

theorem step_of_pending_use {s : State} {i : Instr} {rest : List HostAct} (h : s.pending = .use i :: rest) :
    step s = exec i { s with pending := rest } := by
  rw [step, fetch_of_pending_cons h]

theorem step_of_pending_assign {s : State} {p : Inputs} {src : IdSource} {read : List OutPort} {rest : List HostAct}
    (h : s.pending = .assign p src read :: rest) : step s = .next (hostAssign p src read { s with pending := rest }) := by
  rw [step, fetch_of_pending_cons h]

theorem step_of_pending_nil {s : State} (h : s.pending = []) : step s = .next s := by
  rw [step, fetch_eq_none.2 h]

theorem step_next (s : State) : ∃ t, step s = .next t := by
  cases h : s.pending with
  | nil => exact ⟨s, step_of_pending_nil h⟩
  | cons a rest =>
    cases a with
    | use i => rw [step_of_pending_use h]; exact exec_next i _
    | assign p src read => exact ⟨_, step_of_pending_assign h⟩

/-- The first step of a run, taken off. -/
theorem run_succ_of_step {M : Host.Core} {s t : M.State} (h : M.step s = .next t) (k : Nat) : M.run (k + 1) s = M.run k t := by
  rw [Host.Core.run, h]

/-! ### `enc_id` connected to `dec_id` (R40, R187) -/

/-- A use of the packer reaches the extractors at once where `enc_id` is connected to `dec_id`. -/
theorem usePacker_ports_dec_id {s : State} (h : s.idSource = .enc_id) (d t n z : Nat) :
    (usePacker d t n z s).ports.dec_id = pack d t n z := by
  obtain ⟨hin, hsrc, -⟩ := usePacker_spec d t n z s
  calc (usePacker d t n z s).ports.dec_id
      = (carried .enc_id (drivePacker d t n z s.inputs)).dec_id := by rw [State.ports, hin, hsrc, h]
    _ = pack d t n z := readOut_drivePacker d t n z s.inputs

/-! ### The obligations -/

/-- Settles O47: each operation records its result, so a step, whatever the act, answers `next`; `Fault` has no constructor. -/
theorem everyOperationReturnsAValue : Obligations.EveryOperationReturnsAValue :=
  ⟨fun i s => ⟨resultOf i, exec_next_resultOf i s⟩, step_next, nofun⟩

/-- Settles O48, by induction on the length of the run. -/
theorem runsNeverStop : Obligations.RunsNeverStop := by
  intro k
  induction k with
  | zero => exact fun s => ⟨s, rfl⟩
  | succ k ih =>
    intro s
    obtain ⟨t, ht⟩ := step_next s
    obtain ⟨u, hu⟩ := ih t
    exact ⟨u, (run_succ_of_step (M := Sys2Proof.core) ht k).trans hu⟩

/-- Settles O58: on the connected ports, after an assignment and after a use, the extractors read the packed word. -/
theorem connectedPackerFeedsTheExtractors : Obligations.ConnectedPackerFeedsTheExtractors := by
  refine ⟨fun s p rest h => ⟨_, step_of_pending_assign h, rfl, ?assigned⟩, fun d t n z s u hsrc hu => ?used⟩
  case assigned =>
    rw [← extractDirection_pack, ← extractType_pack, ← extractNumber_pack, ← extractSize_pack]
    rfl
  case used =>
    obtain rfl : usePacker d t n z s = u := Host.Outcome.next.inj hu
    simp only [readOut, usePacker_ports_dec_id hsrc, extractDirection_pack_toNat, extractType_pack_toNat,
      extractNumber_pack_toNat, extractSize_pack_toNat, and_self]

/-- Settles O59: the extractors' results are the outputs read; the packer's operands give through its ports the word they give
alone. -/
theorem simultaneousUsesGiveTheirSeparateResults : Obligations.SimultaneousUsesGiveTheirSeparateResults := by
  intro d t n z id s rest h
  refine ⟨_, step_of_pending_assign h, rfl, ?_⟩
  have hpack := readOut_drivePacker d t n z { Inputs.zero with dec_id := id }
  rw [resultOf, ← hpack]
  rfl

/-- Settles O45: the act at the head of the list decides the step. -/
theorem stepMakesTheNextPresentation : Obligations.StepMakesTheNextPresentation :=
  ⟨fun _ _ _ => step_of_pending_use, fun _ _ _ _ => step_of_pending_assign, fun _ _ _ _ => step_of_pending_assign,
    fun _ => step_of_pending_nil⟩

end Sys2Proof.Machine

/-! ## Proofs about reset, wiring and runs (70_reset_and_hazards.md)

A step takes one act off the host's list and records that act's results, which depend on the act alone; a run of the whole list
is that step repeated. The block itself is wiring: each output bit is one input bit, or 0. -/

namespace Sys2Proof

/-- Each bit of an assembled word is one bit of one field (R70). -/
theorem assemble_getLsbD (d : BitVec 2) (s : BitVec 14) (t n : BitVec 8) (i : Nat) :
    (assemble d s t n).getLsbD i = (if i < 8 then n.getLsbD i else if i < 16 then t.getLsbD (i - 8)
      else if i < 30 then s.getLsbD (i - 16) else d.getLsbD (i - 30)) := by
  have htype : i < 16 ↔ i - 8 < 8 := by omega
  have hsize : i < 30 ↔ i - 8 - 8 < 14 := by omega
  simp only [assemble, BitVec.getLsbD_append, htype, hsize, Nat.sub_sub]

end Sys2Proof

namespace Sys2Proof.Machine

/-! ### A step takes one act and records its results (R205, R209) -/

theorem exec_pending_and_block {i : Instr} {s t : State} (h : exec i s = .next t) : t.pending = s.pending ∧ t.block = s.block := by
  obtain ⟨dir, type, num, size, -, hexec⟩ | ⟨port, id, -, -, hexec⟩ := exec_cases i
  · obtain rfl : usePacker dir type num size s = t := Host.Outcome.next.inj ((hexec s).symm.trans h)
    obtain ⟨-, -, -, hpend, hblock⟩ := usePacker_spec dir type num size s
    exact ⟨hpend, hblock⟩
  · obtain rfl : useExtractor port id s = t := Host.Outcome.next.inj ((hexec s).symm.trans h)
    obtain ⟨-, -, -, hpend, hblock⟩ := useExtractor_spec port id s
    exact ⟨hpend, hblock⟩

/-- Whichever act is next, the step answers, the act leaves the list and its own results join the record. -/
theorem step_of_pending_cons {s : State} {a : HostAct} {rest : List HostAct} (h : s.pending = a :: rest) :
    ∃ t, step s = .next t ∧ t.observed = s.observed ++ actResults a ∧ t.pending = rest ∧ t.block = s.block := by
  cases a with
  | use i =>
    obtain ⟨t, ht, hobs⟩ := exec_next_resultOf i { s with pending := rest }
    obtain ⟨hpend, hblock⟩ := exec_pending_and_block ht
    exact ⟨t, (step_of_pending_use h).trans ht, hobs, hpend, hblock⟩
  | assign p src read =>
    obtain ⟨-, -, hobs, hpend, hblock⟩ := hostAssign_spec p src read { s with pending := rest }
    exact ⟨_, step_of_pending_assign h, hobs, hpend, hblock⟩

/-! ### Each output bit is one input bit or 0 (R207) -/

/-- The low bits of a port are the port's. -/
theorem extractLsb'_low_getLsbD (w : Word) {k i : Nat} (hi : i < k) : (w.extractLsb' 0 k).getLsbD i = w.getLsbD i := by
  simp [hi]

theorem readOut_enc_id_getLsbD (p : Inputs) {i : Nat} (hi : i < 32) : (readOut .enc_id p).getLsbD i =
    (if i < 8 then p.enc_number.getLsbD i else if i < 16 then p.enc_type.getLsbD (i - 8)
      else if i < 30 then p.enc_size.getLsbD (i - 16) else p.enc_direction.getLsbD (i - 30)) := by
  rw [readOut_enc_id_eq_assemble, assemble_getLsbD]
  split_ifs with hnum htype hsize
  · exact extractLsb'_low_getLsbD p.enc_number hnum
  · exact extractLsb'_low_getLsbD p.enc_type (by omega)
  · exact extractLsb'_low_getLsbD p.enc_size (by omega)
  · exact extractLsb'_low_getLsbD p.enc_direction (by omega)

/-- The extracted field's bits stand `offset` places lower; the bits above the field are 0. -/
theorem takeField_getLsbD (id : Word) (offset : Nat) {k i : Nat} (hk : k ≤ 32) (hi : i < 32) :
    (takeField id offset (2 ^ k - 1)).getLsbD i = if i < k then id.getLsbD (i + offset) else false := by
  rw [takeField_eq_setWidth id offset k hk, BitVec.getLsbD_setWidth, BitVec.getLsbD_extractLsb', Nat.add_comm offset i]
  simp [hi]

/-! ### Inputs at 0 (R202) -/

theorem readOut_zero (port : OutPort) : readOut port Inputs.zero = 0 := by
  cases port with
  | enc_id => decide
  | dec_direction => decide
  | dec_type => decide
  | dec_number => decide
  | dec_size => decide

/-! ### The obligations -/

/-- Settles O52: at the end of the list nothing changes; an act moves from the list's results to the record's. -/
theorem stepTradesActsForTheirResults : Obligations.StepTradesActsForTheirResults := by
  intro s t h
  cases hp : s.pending with
  | nil =>
    obtain rfl : s = t := Host.Outcome.next.inj ((step_of_pending_nil hp).symm.trans h)
    rw [hp]
  | cons a rest =>
    obtain ⟨u, hu, hobs, hpend, -⟩ := step_of_pending_cons hp
    obtain rfl : u = t := Host.Outcome.next.inj (hu.symm.trans h)
    rw [hobs, hpend, List.flatMap_cons, List.append_assoc]

/-- Settles O51, by induction on the host's list. -/
theorem runObservesTheFunctionsOfItsPresentations : Obligations.RunObservesTheFunctionsOfItsPresentations := by
  intro s
  induction hp : s.pending generalizing s with
  | nil => exact ⟨s, rfl, (List.append_nil _).symm, hp, rfl⟩
  | cons a rest ih =>
    obtain ⟨t, ht, hobs, hpend, hblock⟩ := step_of_pending_cons hp
    obtain ⟨u, hrun, huobs, hupend, hublock⟩ := ih t hpend
    refine ⟨u, (run_succ_of_step (M := Sys2Proof.core) ht _).trans hrun, ?observed, hupend, hublock.trans hblock⟩
    case observed => rw [huobs, hobs, List.flatMap_cons, List.append_assoc]

/-- Settles O60: the new results are the outputs read in the state the step ends in. -/
theorem newResultsAreOnTheirPorts : Obligations.NewResultsAreOnTheirPorts := by
  intro s t h
  obtain ⟨read, hobs⟩ := step_records_ports h
  refine ⟨_, hobs, fun o ho => ?_⟩
  obtain ⟨port, -, rfl⟩ := List.mem_map.1 ho
  rfl

/-- Settles O17: the packer's bits are its fields', an extractor's the word's, moved down by the field's offset. -/
theorem eachOutputBitHasOneInputBit : Obligations.EachOutputBitHasOneInputBit := fun p _ hi =>
  ⟨readOut_enc_id_getLsbD p hi, takeField_getLsbD p.dec_id 30 (k := 2) (by decide) hi,
    takeField_getLsbD p.dec_id 8 (k := 8) (by decide) hi, takeField_getLsbD p.dec_id 0 (k := 8) (by decide) hi,
    takeField_getLsbD p.dec_id 16 (k := 14) (by decide) hi⟩

/-- Settles O21: the looped packer packs a word's own fields. -/
theorem loopedWiresAreAFixedPoint : Obligations.LoopedWiresAreAFixedPoint := fun p => pack_extracted p.dec_id

/-- Settles O56: the reset state's ports carry the zero inputs, driven by the host. -/
theorem zeroInputsGiveZeroOutputs : Obligations.ZeroInputsGiveZeroOutputs := ⟨readOut_zero, readOut_zero, rfl, rfl⟩

end Sys2Proof.Machine
